-- ==== Sys2Proof/Word.lean ====
section
/-! DEFINITION. The word types of the core: bytes, command words, the 32-bit registers and the accumulator word. -/

namespace Sys2Proof

/-- A sample, a packed byte, a tile entry, an emitted byte. -/
abbrev Byte := BitVec 8

/-- One command word, format C64 (R78). -/
abbrev CommandWord := BitVec 64

/-- One CSR value (R38), and the 32-bit registers. -/
abbrev Word32 := BitVec 32

/-- One accumulator element, ACC_BITS = 16, two's complement (R8, R31). -/
abbrev AccWord := BitVec 16

end Sys2Proof
end

