-- ==== Sys2Proof/Config.lean ====
section
/-! DEFINITION. The implementation parameters that the spec leaves open (R8) and their consistency constraints (R9). -/

namespace Sys2Proof

/-- The open parameters of R8. They are fixed for one core: no command and no reset writes them (R23, R37).
Every statement about the model quantifies over them. -/
structure Params where
  /-- MAX_WIDTH (R8, decision D28). -/
  maxWidth : Nat
  /-- TILE_MAX_SIDE (R8, decision D29). -/
  tileMaxSide : Nat
  /-- BAYER_ROM (R37, R121), row-major: entry (r, c) is element 8r + c. Six bits keep each entry in [0, 63]. -/
  bayerRom : Vector (BitVec 6) 64
deriving DecidableEq, Repr

/-- R8 and R9: the ranges outside which a set of parameters is not a model of this core. -/
abbrev Params.Legal (p : Params) : Prop :=
  1 ≤ p.maxWidth ∧ p.maxWidth ≤ 32768 ∧ 1 ≤ p.tileMaxSide ∧ p.tileMaxSide ≤ 65535

end Sys2Proof
end

