-- ==== Sys2Proof/Machine/Parameters.lean ====
section
/-! DEFINITION. The parameter values that R8 fixes, and the default values of the open ones that the spec's vectors use
(R8, R121). Statements quantify over `Params`; only `State.reset` uses the defaults (log 1, log 2). -/

namespace Sys2Proof

/-- BAYER_SIDE (R8). -/
def bayerSide : Nat := 8

/-- BAYER_SCALE (R8, R122). -/
def bayerScale : Nat := 4

/-- ED_THRESHOLD (R8, R152, R155). -/
def edThreshold : Int := 0x3F

/-- PACK_THRESHOLD (R8, R164). -/
def packThreshold : Nat := 0x3F

/-- FRAME_CAPACITY in bytes (R8, R174). -/
def frameCapacity : Nat := 4096

/-- PBUF_BYTES (R8, decision D17). -/
def pbufBytes : Nat := 4096

/-- FRAME_OPCODE (R8, R88). -/
def frameOpcode : List Byte := [0x1D, 0x76, 0x30, 0x00]

/-- The default BAYER_ROM, the table of R121, PRESUMED (the spec marks it general knowledge; log 2). -/
def defaultBayerRom : Vector (BitVec 6) 64 :=
  #v[0, 32, 8, 40, 2, 34, 10, 42,
     48, 16, 56, 24, 50, 18, 58, 26,
     12, 44, 4, 36, 14, 46, 6, 38,
     60, 28, 52, 20, 62, 30, 54, 22,
     3, 35, 11, 43, 1, 33, 9, 41,
     51, 19, 59, 27, 49, 17, 57, 25,
     15, 47, 7, 39, 13, 45, 5, 37,
     63, 31, 55, 23, 61, 29, 53, 21]

/-- The parameters of the spec's vectors (R8): MAX_WIDTH 384, TILE_MAX_SIDE 64, the default ROM. -/
def Params.default : Params :=
  { maxWidth := 384, tileMaxSide := 64, bayerRom := defaultBayerRom }

end Sys2Proof
end

