-- ==== Sys2Proof/Machine/State.lean ====
section
/-! DEFINITION. The machine's state as plain data (R23), the host's inputs, the model's stops and refusals, and the state
after reset (R58). -/

namespace Sys2Proof.Machine

/-- A sparse memory: pairs of an index and an element, indices strictly rising (`Memory.wf`). An index that is not
listed holds NO value (`Memory.read` answers none), so no listed entry can equal what an unlisted one reads as. -/
abbrev Memory (α : Type) := List (Nat × α)

/-- The element spaces that commands read and write (R59). -/
inductive Space where
  | tlut | acc0 | acc1 | acc2 | pbuf
deriving DecidableEq, Repr

/-- The five ditherer modes of R25; the values 5 to 7 are no mode. -/
inductive Mode where
  | bayer | blue | fs | atk | pass
deriving DecidableEq, Repr

/-- The fault codes of R203, by name. -/
inductive FaultCode where
  | none | configurationError | contractViolation | sizeMismatch | capacityExceeded | outOfRange | illegalCommand
  | payloadOverflow
deriving DecidableEq, Repr

/-- What the host does to the core, one item at a time (R66, R220, R227). -/
inductive HostInput where
  /-- A whole command word on the command channel (R66). -/
  | command (w : CommandWord)
  /-- rst_i asserted and released between two commands (R220). -/
  | hardReset
  /-- rst_i asserted while the command word `w` executes, the transport having taken `emitted` bytes of whatever `w`
  emits (R222, R227; the length is the host's, so every length is covered: log 8). -/
  | resetDuring (w : CommandWord) (emitted : Nat)
  /-- A command word sent while rst_i is asserted (R227). -/
  | wordDuringReset (w : CommandWord)
deriving DecidableEq, Repr

/-- The machine's state. The fields down to `out` are the tuple of R23; `params` are the constants of R8; `input` and
`transportReady` are the model's own view of the two channels to the host (log 3, log 10). -/
structure State where
  /-- The open parameters (R8): constant, no step writes them. -/
  params : Params
  /-- W (R24). -/
  w : BitVec 16
  /-- MODE (R25). -/
  mode : Mode
  /-- ATK_GE (R26). -/
  atkGe : Bool
  /-- PACK_LE (R27). -/
  packLe : Bool
  /-- FRAME_W (R28). -/
  frameW : BitVec 32
  /-- FRAME_H (R28). -/
  frameH : BitVec 32
  /-- TILE_VALID (R29). -/
  tileValid : Bool
  /-- TILE_LOADING (R29). -/
  tileLoading : Bool
  /-- TILE_SIDE (R29). -/
  tileSide : BitVec 16
  /-- TILE_COUNT (R29). -/
  tileCount : BitVec 32
  /-- TLUT (R29, R61). -/
  tlut : Memory Byte
  /-- ACTIVE (R30). -/
  active : Bool
  /-- COL (R30). -/
  col : BitVec 16
  /-- ROW (R30), exact. -/
  row : Nat
  /-- ACC0 (R31), the source's errors0. -/
  acc0 : Memory AccWord
  /-- ACC1 (R31), the source's errors1. -/
  acc1 : Memory AccWord
  /-- ACC2 (R31), the source's errors2. -/
  acc2 : Memory AccWord
  /-- PACK_ACC (R32). -/
  packAcc : BitVec 8
  /-- PACK_N (R32). -/
  packN : BitVec 3
  /-- PBUF (R33). -/
  pbuf : Memory Byte
  /-- PAYLOAD_LEN (R33). -/
  payloadLen : BitVec 13
  /-- PAYLOAD_ROWS (R33). -/
  payloadRows : BitVec 13
  /-- CMD_COUNT (R34). -/
  cmdCount : BitVec 32
  /-- FAULT (R35). -/
  fault : Bool
  /-- ERR_CODE (R35). -/
  errCode : BitVec 8
  /-- ERR_OPC (R35). -/
  errOpc : BitVec 8
  /-- ERR_INFO (R35). -/
  errInfo : BitVec 8
  /-- ERR_CMD (R35). -/
  errCmd : BitVec 32
  /-- OUT (R36), in emission order. -/
  out : List Byte
  /-- What the host has sent and the core has not yet taken, oldest first (the command channel of R59). -/
  input : List HostInput
  /-- Whether the transport takes bytes now (R65, R226); the host's, no step writes it. -/
  transportReady : Bool
deriving DecidableEq, Repr

/-- Where the MODEL stops. The core's own faults (R200) are next states with the fault record written, never one of
these. All three are safe: the spec gives no value there, and the invariant of R57 shows no run reaches one. -/
inductive Fault where
  /-- An element that nothing has written is read (R77: "the model must fault rather than invent a value"). Raised by
  PIX, BUILD and BUILDA through `memRead`. Safe. -/
  | unwritten (space : Space) (index : Nat)
  /-- An index outside its space (R59). Raised by TLDATA, PIX, BUILD and BUILDA through `memRead` and `memWrite`. Safe. -/
  | outside (space : Space) (index : Nat)
  /-- A blue-noise lookup with TILE_SIDE = 0, where the spec's mod is not defined (R12). Raised by PIX. Safe. -/
  | tileSideZero
deriving DecidableEq, Repr

/-- Where the model gives no meaning. -/
inductive Refusal where
  /-- A command without a meaning yet; raised by an arm of `exec` only. Safe. None is left. -/
  | notModelled (mnemonic : String)
  /-- A command word sent while rst_i is asserted: R227 makes it the platform's doing, and 93_implementation_defined.md
  I17 says a model of the core refuses such a schedule. Raised by `step`. Safe. -/
  | wordDuringReset (w : CommandWord)
deriving DecidableEq, Repr

/-- The state after power-on reset (R58, R220). Arrays hold no element (log 5); the open parameters are the defaults
(log 1, log 2); nothing has been sent or emitted (log 3, log 7), and the transport takes bytes (log 10). -/
def State.reset : State :=
  { params := Params.default
    w := 0
    mode := .bayer
    atkGe := true
    packLe := true
    frameW := 0
    frameH := 0
    tileValid := false
    tileLoading := false
    tileSide := 0
    tileCount := 0
    tlut := []
    active := false
    col := 0
    row := 0
    acc0 := []
    acc1 := []
    acc2 := []
    packAcc := 0
    packN := 0
    pbuf := []
    payloadLen := 0
    payloadRows := 0
    cmdCount := 0
    fault := false
    errCode := 0
    errOpc := 0
    errInfo := 0
    errCmd := 0
    out := []
    input := []
    transportReady := true }

end Sys2Proof.Machine
end

