-- ==== Sys2Proof/Machine/Flags.lean ====
section
/-! DEFINITION. The core's four flags (R55), each writer of the table of R55 as one definition, and the numbers of the
fault codes (R203). The core has no arithmetic condition codes. -/

namespace Sys2Proof.Machine

/-- ERR_CODE's number for a fault (R203). -/
def FaultCode.code : FaultCode → BitVec 8
  | .none => 0
  | .configurationError => 1
  | .contractViolation => 2
  | .sizeMismatch => 3
  | .capacityExceeded => 4
  | .outOfRange => 5
  | .illegalCommand => 6
  | .payloadOverflow => 7

/-- ACTIVE set, by START (R55, R130). -/
def State.openStream (s : State) : State := { s with active := true }

/-- ACTIVE cleared, by END (R55, R136). -/
def State.closeStream (s : State) : State := { s with active := false }

/-- TILE_LOADING set, by TLBEGIN (R55, R117). -/
def State.openLoad (s : State) : State := { s with tileLoading := true }

/-- TILE_LOADING cleared and TILE_VALID set, by a successful TLEND (R55, R119). -/
def State.closeLoad (s : State) : State := { s with tileLoading := false, tileValid := true }

/-- STATUS (R39): FAULT, ACTIVE, TILE_VALID, TILE_LOADING from bit 0 up. -/
def State.statusBits (s : State) : Word32 :=
  (BitVec.ofBool s.tileLoading ++ BitVec.ofBool s.tileValid ++ BitVec.ofBool s.active ++ BitVec.ofBool s.fault).setWidth 32

/-- fault_o (R202): a level equal to STATUS.FAULT. -/
def State.faultOutput (s : State) : Bool := s.fault

end Sys2Proof.Machine
end

