-- ==== Sys2Proof/Syntax.lean ====
section
/-! DEFINITION. The command set as data: one constructor per row of spec/opcode_table.json, with the operand fields of
R80 and R81 as the bits the word holds. -/

namespace Sys2Proof

/-- The 15 commands of R80. -/
inductive Instr where
  /-- NOP (R90). -/
  | nop
  /-- SRST (R91). -/
  | srst
  /-- SETW w (R92). -/
  | setw (w : BitVec 16)
  /-- SETMODE m (R93). -/
  | setmode (m : BitVec 3)
  /-- SETCMP atk_ge, pack_le (R94). -/
  | setcmp (atkGe packLe : Bool)
  /-- SETFW v (R172). -/
  | setfw (v : BitVec 32)
  /-- SETFH v (R173). -/
  | setfh (v : BitVec 32)
  /-- TLBEGIN s (R117). -/
  | tlbegin (s : BitVec 16)
  /-- TLDATA d (R118). -/
  | tldata (d : Byte)
  /-- TLEND (R119). -/
  | tlend
  /-- START (R130). -/
  | start
  /-- PIX s, last (R131). -/
  | pix (s : Byte) (last : Bool)
  /-- END (R136); the word end is Lean's own. -/
  | endStream
  /-- BUILD (R176). -/
  | build
  /-- BUILDA (R177). -/
  | builda
deriving DecidableEq, Repr

end Sys2Proof
end

