-- ==== Sys2Proof/WellFormed.lean ====
section
/-! DEFINITION. Which commands have legal field values: check 4 of R79. -/

namespace Sys2Proof

/-- R79 check 4, R82, R83: only SETW (1 ≤ w ≤ MAX_WIDTH) and SETMODE (m ≤ 4) have a legal set of field values. Every
other field accepts every value its bits hold. -/
def Instr.wellFormed (p : Params) : Instr → Bool
  | .nop => true
  | .srst => true
  | .setw w => decide (1 ≤ w.toNat) && decide (w.toNat ≤ p.maxWidth)
  | .setmode m => decide (m.toNat ≤ 4)
  | .setcmp _ _ => true
  | .setfw _ => true
  | .setfh _ => true
  | .tlbegin _ => true
  | .tldata _ => true
  | .tlend => true
  | .start => true
  | .pix _ _ => true
  | .endStream => true
  | .build => true
  | .builda => true

end Sys2Proof
end

