-- ==== Sys2Proof/Decode.lean ====
section
/-! DEFINITION. Command words to commands and back: the opcode map (R80), the must-be-zero masks (R83), the decode checks
1 to 3 of R79 in their order, and the encoder written from the same tables. Check 4 (field values) needs MAX_WIDTH, so
the meanings of SETW and SETMODE make it, before any check of their own (log 11). -/

namespace Sys2Proof

/-- The defined opcodes (R80). -/
inductive Opcode where
  | nop | srst | setw | setmode | setcmp | setfw | setfh | tlbegin | tldata | tlend | start | pix | endStream | build
  | builda
deriving DecidableEq, Repr

/-- OPC, bits [63:56] (R80). -/
def Opcode.bits : Opcode → BitVec 8
  | .nop => 0x00
  | .srst => 0x01
  | .setw => 0x10
  | .setmode => 0x11
  | .setcmp => 0x12
  | .setfw => 0x13
  | .setfh => 0x14
  | .tlbegin => 0x20
  | .tldata => 0x21
  | .tlend => 0x22
  | .start => 0x30
  | .pix => 0x31
  | .endStream => 0x32
  | .build => 0x40
  | .builda => 0x41

/-- The opcodes in the order of R80. -/
def Opcode.all : List Opcode :=
  [.nop, .srst, .setw, .setmode, .setcmp, .setfw, .setfh, .tlbegin, .tldata, .tlend, .start, .pix, .endStream, .build,
    .builda]

/-- The opcode map read backwards; none for the 241 unassigned values (R82). -/
def Opcode.ofBits (b : BitVec 8) : Option Opcode :=
  Opcode.all.find? fun o => o.bits == b

/-- MBZ(OPC), the must-be-zero mask over OPERAND (R83). -/
def Opcode.mbz : Opcode → BitVec 32
  | .nop => 0xFFFFFFFF
  | .srst => 0xFFFFFFFF
  | .setw => 0xFFFF0000
  | .setmode => 0xFFFFFFF8
  | .setcmp => 0xFFFFFFFC
  | .setfw => 0x00000000
  | .setfh => 0x00000000
  | .tlbegin => 0xFFFF0000
  | .tldata => 0xFFFFFF00
  | .tlend => 0xFFFFFFFF
  | .start => 0xFFFFFFFF
  | .pix => 0xFFFFFE00
  | .endStream => 0xFFFFFFFF
  | .build => 0xFFFFFFFF
  | .builda => 0xFFFFFFFF

/-- OPC = w[63:56] (R78). -/
def opcField (w : CommandWord) : BitVec 8 := w.extractLsb' 56 8

/-- RSV = w[55:32] (R78). -/
def rsvField (w : CommandWord) : BitVec 24 := w.extractLsb' 32 24

/-- OPERAND = w[31:0] (R78). -/
def operandField (w : CommandWord) : BitVec 32 := w.extractLsb' 0 32

/-- The command an opcode makes of an operand (R81). -/
def Opcode.assemble (x : BitVec 32) : Opcode → Instr
  | .nop => .nop
  | .srst => .srst
  | .setw => .setw (x.extractLsb' 0 16)
  | .setmode => .setmode (x.extractLsb' 0 3)
  | .setcmp => .setcmp (x.getLsbD 0) (x.getLsbD 1)
  | .setfw => .setfw x
  | .setfh => .setfh x
  | .tlbegin => .tlbegin (x.extractLsb' 0 16)
  | .tldata => .tldata (x.extractLsb' 0 8)
  | .tlend => .tlend
  | .start => .start
  | .pix => .pix (x.extractLsb' 0 8) (x.getLsbD 8)
  | .endStream => .endStream
  | .build => .build
  | .builda => .builda

/-- Why a word is no command: the first of checks 1 to 3 of R79 that fails. -/
inductive DecodeError where
  /-- Check 1: the opcode is not in the map. -/
  | unknownOpcode
  /-- Check 2: a reserved bit of [55:32] is set. -/
  | reservedBits
  /-- Check 3: a must-be-zero operand bit is set. -/
  | operandBits
deriving DecidableEq, Repr

/-- ERR_INFO of the ILLEGAL_COMMAND each check raises (R79, R204). -/
def DecodeError.info : DecodeError → BitVec 8
  | .unknownOpcode => 1
  | .reservedBits => 2
  | .operandBits => 3

/-- R79, checks 1 to 3, in order; total on every 64-bit word. -/
def decode (w : CommandWord) : Except DecodeError Instr :=
  match Opcode.ofBits (opcField w) with
  | none => .error .unknownOpcode
  | some o =>
    if rsvField w ≠ 0 then .error .reservedBits
    else if operandField w &&& o.mbz ≠ 0 then .error .operandBits
    else .ok (o.assemble (operandField w))

/-- The opcode of a command (R80). -/
def Instr.opcode : Instr → Opcode
  | .nop => .nop
  | .srst => .srst
  | .setw _ => .setw
  | .setmode _ => .setmode
  | .setcmp _ _ => .setcmp
  | .setfw _ => .setfw
  | .setfh _ => .setfh
  | .tlbegin _ => .tlbegin
  | .tldata _ => .tldata
  | .tlend => .tlend
  | .start => .start
  | .pix _ _ => .pix
  | .endStream => .endStream
  | .build => .build
  | .builda => .builda

/-- The OPERAND bits of a command (R81, R83): fields at their places, every other bit zero. -/
def Instr.operand : Instr → BitVec 32
  | .nop => 0
  | .srst => 0
  | .setw w => w.setWidth 32
  | .setmode m => m.setWidth 32
  | .setcmp atkGe packLe => (BitVec.ofBool packLe ++ BitVec.ofBool atkGe).setWidth 32
  | .setfw v => v
  | .setfh v => v
  | .tlbegin s => s.setWidth 32
  | .tldata d => d.setWidth 32
  | .tlend => 0
  | .start => 0
  | .pix s last => (BitVec.ofBool last ++ s).setWidth 32
  | .endStream => 0
  | .build => 0
  | .builda => 0

/-- The command word of a command: OPC, RSV = 0, OPERAND (R78). -/
def encode (i : Instr) : CommandWord :=
  (i.opcode.bits.setWidth 64 <<< 56) ||| i.operand.setWidth 64

/-- The whole-word mask of R83. -/
def Opcode.mask (o : Opcode) : CommandWord :=
  (0xFFFFFFFF#32).setWidth 64 <<< 32 ||| o.mbz.setWidth 64

/-- The whole-word match of R83. -/
def Opcode.matchWord (o : Opcode) : CommandWord := o.bits.setWidth 64 <<< 56

/-- The one word a faulted core accepts (R91, R207). -/
def srstWord : CommandWord := 0x0100000000000000

/-- What the decoder reads from an instruction whose bits are `w`, numbered as spec/opcode_table.json numbers them; a row
is one 64-bit word (R84), moved as one unit (R66). -/
def decodeTableWord (nbits w : Nat) : Option Instr :=
  match decode (BitVec.ofNat 64 (w % 2 ^ nbits)) with
  | .ok i => some i
  | .error _ => none

end Sys2Proof
end

