-- ==== Sys2Proof/Machine/Operands.lean ====
section
/-! DEFINITION. How operand fields and stored fields are read as numbers (R12, R24, R25, R28, R81), and the integer
division primitives (R12, R13). -/

namespace Sys2Proof.Machine

/-- floorDiv(a, b) for b > 0 (R12, R13): Lean's `/` on Int rounds toward −∞ for a positive divisor. -/
def floorDiv (a b : Int) : Int := a / b

/-- ceilDiv(a, b) for a ≥ 0, b > 0 (R12). -/
def ceilDiv (a b : Int) : Int := floorDiv (a + b - 1) b

/-- sext_32 of a frame operand (R12, R81, R172, R173). -/
def signed32 (v : BitVec 32) : Int := v.toInt

/-- The low 16 bits of an integer, as a frame header carries it (R88, R175). -/
def low16 (v : Int) : BitVec 16 := BitVec.ofInt 16 v

/-- The mode a 3-bit value names (R25); none for 5, 6 and 7. -/
def Mode.ofBits (m : BitVec 3) : Option Mode :=
  match m.toNat with
  | 0 => some .bayer
  | 1 => some .blue
  | 2 => some .fs
  | 3 => some .atk
  | 4 => some .pass
  | _ => none

/-- The number of a mode (R25). -/
def Mode.toBits : Mode → BitVec 3
  | .bayer => 0
  | .blue => 1
  | .fs => 2
  | .atk => 3
  | .pass => 4

/-- R79 check 4 for SETW: 1 ≤ w ≤ MAX_WIDTH (R24, R92). -/
def widthLegal (p : Params) (w : BitVec 16) : Bool :=
  decide (1 ≤ w.toNat) && decide (w.toNat ≤ p.maxWidth)

/-- 1 ≤ s ≤ TILE_MAX_SIDE (R29, R117). -/
def tileSideLegal (p : Params) (s : BitVec 16) : Bool :=
  decide (1 ≤ s.toNat) && decide (s.toNat ≤ p.tileMaxSide)

/-- TILE_SIDE² (R118, R119). -/
def State.tileArea (s : State) : Nat := s.tileSide.toNat * s.tileSide.toNat

/-- LIGHT or DARK (R14): the quantized byte of a decision. -/
def quantized (isLight : Bool) : Byte := if isLight then 0xFF else 0x00

end Sys2Proof.Machine
end

