-- ==== Sys2Proof/Machine/Ops.lean ====
section
/-! DEFINITION. The shared operations: element memories, the accumulators, taking a fault and leaving it, completing a
command, and appending to the payload buffer and the output channel. -/

namespace Sys2Proof.Machine

/-- What one step or one command answers. -/
abbrev StepOutcome := Host.Outcome State Fault Refusal

/-! ## Element memories -/

/-- The canonical form: indices strictly rising, hence none twice. -/
abbrev Memory.wf {α : Type} (m : Memory α) : Prop := m.Pairwise fun p q => p.1 < q.1

/-- The element at an index, none where nothing has been written. -/
def Memory.read {α : Type} : Memory α → Nat → Option α
  | [], _ => none
  | (k, v) :: m, a => if k = a then some v else Memory.read m a

/-- One element written; the canonical form is kept. -/
def Memory.write {α : Type} : Memory α → Nat → α → Memory α
  | [], a, v => [(a, v)]
  | (k, x) :: m, a, v =>
    if a < k then (a, v) :: (k, x) :: m
    else if a = k then (a, v) :: m
    else (k, x) :: Memory.write m a v

/-- Elements 0 to n − 1, all `v`. -/
def Memory.fill {α : Type} (n : Nat) (v : α) : Memory α := (List.range n).map fun k => (k, v)

/-- MemRead(space, k, 1) (R12): k must lie in the space (R59), and the element must have been written (R77). -/
def memRead {α : Type} (space : Space) (size : Nat) (m : Memory α) (k : Nat) : Except Fault α :=
  if k < size then
    match m.read k with
    | some v => .ok v
    | none => .error (.unwritten space k)
  else .error (.outside space k)

/-- MemWrite(space, k, 1, v) (R12): k must lie in the space (R59). -/
def memWrite {α : Type} (space : Space) (size : Nat) (m : Memory α) (k : Nat) (v : α) : Except Fault (Memory α) :=
  if k < size then .ok (m.write k v) else .error (.outside space k)

/-- Elements start to start + n − 1, in index order (R63). -/
def memReadRange {α : Type} (space : Space) (size : Nat) (m : Memory α) : Nat → Nat → Except Fault (List α)
  | _, 0 => .ok []
  | start, n + 1 =>
    match memRead space size m start with
    | .error f => .error f
    | .ok v =>
      match memReadRange space size m (start + 1) n with
      | .error f => .error f
      | .ok vs => .ok (v :: vs)

/-- The size of TLUT: TILE_MAX_SIDE² (R9, R59). -/
def tlutSize (p : Params) : Nat := p.tileMaxSide * p.tileMaxSide

/-! ## The accumulators (R31, R62) -/

/-- ACC0, ACC1 or ACC2. -/
inductive AccName where
  | acc0 | acc1 | acc2
deriving DecidableEq, Repr

/-- The space an accumulator array is. -/
def AccName.space : AccName → Space
  | .acc0 => .acc0
  | .acc1 => .acc1
  | .acc2 => .acc2

/-- The array of a name. -/
def State.acc (s : State) : AccName → Memory AccWord
  | .acc0 => s.acc0
  | .acc1 => s.acc1
  | .acc2 => s.acc2

/-- The array of a name replaced. -/
def State.setAcc (s : State) (m : Memory AccWord) : AccName → State
  | .acc0 => { s with acc0 := m }
  | .acc1 => { s with acc1 := m }
  | .acc2 => { s with acc2 := m }

/-- MemRead(ACCk, x, 1) as an integer (R31, R62). -/
def accRead (k : AccName) (x : Nat) (s : State) : Except Fault Int :=
  match memRead k.space s.params.maxWidth (s.acc k) x with
  | .error f => .error f
  | .ok v => .ok v.toInt

/-- ACCk[x] <- ACCk[x] + d, stored in 16 bits two's complement (R31; R162 shows that no value is lost). -/
def accAdd (k : AccName) (x : Nat) (d : Int) (s : State) : Except Fault State :=
  match accRead k x s with
  | .error f => .error f
  | .ok v =>
    match memWrite k.space s.params.maxWidth (s.acc k) x (BitVec.ofInt 16 (v + d)) with
    | .error f => .error f
    | .ok m => .ok (s.setAcc m k)

/-- A whole array of zeros (R130, R154, R158). -/
def zeroAcc (p : Params) : Memory AccWord := Memory.fill p.maxWidth 0

/-! ## Taking a fault, and leaving it -/

/-- raise E(info) (R205): the fault record written, CMD_COUNT advanced, nothing else changed (R206). `opc` is
w[63:56] of the faulting word. -/
def takeFault (opc : BitVec 8) (e : FaultCode) (info : BitVec 8) (s : State) : State :=
  { s with
    fault := true
    errCode := e.code
    errOpc := opc
    errInfo := info
    errCmd := s.cmdCount
    cmdCount := s.cmdCount + 1 }

/-- reset_state() (R221): every field at its value of R58. What is not the core's stays: the parameters (R37), OUT
(R36) and the host's two channels. The arrays become absent, one of the choices R221 allows (log 5). -/
def resetState (s : State) : State :=
  { State.reset with
    params := s.params
    out := s.out
    input := s.input
    transportReady := s.transportReady }

/-! ## How a command ends -/

/-- The command ends without a fault: CMD_COUNT advances by one modulo 2^32 (R34, R95). -/
def complete (s : State) : StepOutcome := .next { s with cmdCount := s.cmdCount + 1 }

/-- The command raises: the step ends with the fault record of R205. -/
def raise (opc : BitVec 8) (e : FaultCode) (info : BitVec 8) (s : State) : StepOutcome :=
  .next (takeFault opc e info s)

/-- The command's writes, made: it ends, or the model stops (R77). -/
def finish : Except Fault State → StepOutcome
  | .ok t => complete t
  | .error f => .fault f

/-! ## The payload buffer and the output channel -/

/-- MemWrite(PBUF, PAYLOAD_LEN, 1, b); PAYLOAD_LEN <- PAYLOAD_LEN + 1 (R63). -/
def payloadAppend (b : Byte) (s : State) : Except Fault State :=
  match memWrite .pbuf pbufBytes s.pbuf s.payloadLen.toNat b with
  | .error f => .error f
  | .ok m => .ok { s with pbuf := m, payloadLen := s.payloadLen + 1 }

/-- PBUF[0 .. PAYLOAD_LEN − 1], in index order (R63). -/
def payloadBytes (s : State) : Except Fault (List Byte) :=
  memReadRange .pbuf pbufBytes s.pbuf 0 s.payloadLen.toNat

/-- emit(b) for each byte of a list (R12, R65). -/
def emit (bytes : List Byte) (s : State) : State := { s with out := s.out ++ bytes }

end Sys2Proof.Machine
end

