-- ==== Sys2Proof/Machine/Control.lean ====
section
/-! DEFINITION. NOP, SRST, SETW, SETMODE and SETCMP (40_control.md). -/

namespace Sys2Proof.Machine

/-- NOP (R90): CMD_COUNT only. -/
def execNop (s : State) : StepOutcome := complete s

/-- SRST (R91): the full reset; CMD_COUNT is 0 and is not advanced (R95). -/
def execSrst (s : State) : StepOutcome := .next (resetState s)

/-- SETW w (R92): ILLEGAL_COMMAND(4), then CONTRACT_VIOLATION(1), then W <- w (order of R209). -/
def execSetw (w : BitVec 16) (s : State) : StepOutcome :=
  if !widthLegal s.params w then raise Opcode.setw.bits .illegalCommand 4 s
  else if s.active then raise Opcode.setw.bits .contractViolation 1 s
  else complete { s with w := w }

/-- SETMODE m (R93): ILLEGAL_COMMAND(4) for m in 5, 6, 7, then CONTRACT_VIOLATION(1), then MODE <- m. -/
def execSetmode (m : BitVec 3) (s : State) : StepOutcome :=
  match Mode.ofBits m with
  | none => raise Opcode.setmode.bits .illegalCommand 4 s
  | some mode =>
    if s.active then raise Opcode.setmode.bits .contractViolation 1 s
    else complete { s with mode := mode }

/-- SETCMP atk_ge, pack_le (R94). -/
def execSetcmp (atkGe packLe : Bool) (s : State) : StepOutcome :=
  if s.active then raise Opcode.setcmp.bits .contractViolation 1 s
  else complete { s with atkGe := atkGe, packLe := packLe }

end Sys2Proof.Machine
end

