-- ==== Sys2Proof/Machine/Frame.lean ====
section
/-! DEFINITION. SETFW, SETFH, BUILD and BUILDA (46_frame.md). -/

namespace Sys2Proof.Machine

/-- SETFW v (R172): every value is held, in every state. -/
def execSetfw (v : BitVec 32) (s : State) : StepOutcome := complete { s with frameW := v }

/-- SETFH v (R173). -/
def execSetfh (v : BitVec 32) (s : State) : StepOutcome := complete { s with frameH := v }

/-- The 8 header bytes of a frame (R88): the opcode, then width and height, low byte first (R67). -/
def frameHeader (w h : Int) : List Byte :=
  frameOpcode ++
    [(low16 w).extractLsb' 0 8, (low16 w).extractLsb' 8 8, (low16 h).extractLsb' 0 8, (low16 h).extractLsb' 8 8]

/-- emit_frame(w, h) (R175): header, payload, and the payload buffer emptied; PBUF keeps its bytes. -/
def emitFrame (w h : Int) (s : State) : Except Fault State :=
  match payloadBytes s with
  | .error f => .error f
  | .ok bytes => .ok { emit (frameHeader w h ++ bytes) s with payloadLen := 0, payloadRows := 0 }

/-- frame(w, h) (R174): mid-row, width range, height range, capacity, size, in that order (90_conflicts.md C2). -/
def frame (opc : BitVec 8) (w h : Int) (s : State) : StepOutcome :=
  if s.col ≠ 0 then raise opc .contractViolation 8 s
  else if w < 0 ∨ w > 65535 then raise opc .outOfRange 0 s
  else if h < 0 ∨ h > 65535 then raise opc .outOfRange 1 s
  else if w * h > frameCapacity then raise opc .capacityExceeded 0 s
  else if w * h ≠ s.payloadLen.toNat then raise opc .sizeMismatch 0 s
  else finish (emitFrame w h s)

/-- BUILD (R176): the shape of FRAME_W and FRAME_H. -/
def execBuild (s : State) : StepOutcome :=
  frame Opcode.build.bits (signed32 s.frameW) (signed32 s.frameH) s

/-- BUILDA (R177): the shape ceilDiv(W, 8) by PAYLOAD_ROWS. -/
def execBuilda (s : State) : StepOutcome :=
  frame Opcode.builda.bits (ceilDiv s.w.toNat 8) s.payloadRows.toNat s

end Sys2Proof.Machine
end

