-- ==== Sys2Proof/Machine/Diffusion.lean ====
section
/-! DEFINITION. The error-diffusion ditherers (44_error_diffusion.md): quantizers, kernels as lists of shares, and the
row-end rotations. -/

namespace Sys2Proof.Machine

/-- One share of a kernel: the array, the column, the amount added (R153, R156). -/
structure Share where
  acc : AccName
  column : Nat
  amount : Int
deriving DecidableEq, Repr

/-- The shares added one after another; they go to distinct elements (R151), so their order does not matter. -/
def applyShares : List Share → State → Except Fault State
  | [], s => .ok s
  | h :: rest, s =>
    match accAdd h.acc h.column h.amount s with
    | .error f => .error f
    | .ok t => applyShares rest t

/-- Floyd–Steinberg quantizer (R152): strict, not affected by SETCMP. -/
def fsQuantize (total : Int) : Byte := quantized (decide (total > edThreshold))

/-- Floyd–Steinberg error (R152). -/
def fsError (total : Int) : Int := floorDiv (total - (fsQuantize total).toNat) 16

/-- Floyd–Steinberg distribution at column c of a row of w samples (R153); c < W − 1 is written c + 1 < w. -/
def fsShares (w c : Nat) (e : Int) : List Share :=
  (if c + 1 < w then [⟨.acc0, c + 1, 7 * e⟩, ⟨.acc1, c + 1, 1 * e⟩] else []) ++
  (if 0 < c then [⟨.acc1, c - 1, 3 * e⟩] else []) ++
  [⟨.acc1, c, 5 * e⟩]

/-- Atkinson quantizer (R155): ATK_GE selects `>=` or `>`. -/
def atkQuantize (atkGe : Bool) (total : Int) : Byte :=
  quantized (if atkGe then decide (total ≥ edThreshold) else decide (total > edThreshold))

/-- Atkinson error (R155). -/
def atkError (atkGe : Bool) (total : Int) : Int := floorDiv (total - (atkQuantize atkGe total).toNat) 8

/-- Atkinson distribution (R156, with the condition of 90_conflicts.md C4 on c + 2). -/
def atkShares (w c : Nat) (e : Int) : List Share :=
  (if c + 1 < w then [⟨.acc0, c + 1, e⟩] else []) ++
  (if c + 2 < w then [⟨.acc0, c + 2, e⟩] else []) ++
  (if 0 < c then [⟨.acc1, c - 1, e⟩] else []) ++
  [⟨.acc1, c, e⟩] ++
  (if c + 1 < w then [⟨.acc1, c + 1, e⟩] else []) ++
  [⟨.acc2, c, e⟩]

/-- total = s + ACC0[c] (R152, R155), c = COL. -/
def diffusionTotal (sample : Byte) (s : State) : Except Fault Int :=
  match accRead .acc0 s.col.toNat s with
  | .error f => .error f
  | .ok v => .ok (sample.toNat + v)

/-- decide in mode FS: the quantized value and the state with its shares added (R152, R153). -/
def decideFs (sample : Byte) (s : State) : Except Fault (Byte × State) :=
  match diffusionTotal sample s with
  | .error f => .error f
  | .ok total =>
    match applyShares (fsShares s.w.toNat s.col.toNat (fsError total)) s with
    | .error f => .error f
    | .ok t => .ok (fsQuantize total, t)

/-- decide in mode ATK (R155, R156). -/
def decideAtk (sample : Byte) (s : State) : Except Fault (Byte × State) :=
  match diffusionTotal sample s with
  | .error f => .error f
  | .ok total =>
    match applyShares (atkShares s.w.toNat s.col.toNat (atkError s.atkGe total)) s with
    | .error f => .error f
    | .ok t => .ok (atkQuantize s.atkGe total, t)

/-- rotate_fs() (R154). -/
def rotateFs (s : State) : State := { s with acc0 := s.acc1, acc1 := zeroAcc s.params }

/-- rotate_atk() (R158). -/
def rotateAtk (s : State) : State := { s with acc0 := s.acc1, acc1 := s.acc2, acc2 := zeroAcc s.params }

end Sys2Proof.Machine
end

