-- ==== Sys2Proof/Machine/Tile.lean ====
section
/-! DEFINITION. TLBEGIN, TLDATA and TLEND, and the two tile lookups (41_tile.md). -/

namespace Sys2Proof.Machine

/-- TLBEGIN s (R117): CONFIGURATION_ERROR(1) when a tile is valid or loading, then CONFIGURATION_ERROR(2). -/
def execTlbegin (side : BitVec 16) (s : State) : StepOutcome :=
  if s.tileValid || s.tileLoading then raise Opcode.tlbegin.bits .configurationError 1 s
  else if !tileSideLegal s.params side then raise Opcode.tlbegin.bits .configurationError 2 s
  else complete { s with tileSide := side, tileCount := 0 }.openLoad

/-- MemWrite(TLUT, TILE_COUNT, 1, d); TILE_COUNT <- TILE_COUNT + 1 (R61, R118). -/
def tileAppend (d : Byte) (s : State) : Except Fault State :=
  match memWrite .tlut (tlutSize s.params) s.tlut s.tileCount.toNat d with
  | .error f => .error f
  | .ok m => .ok { s with tlut := m, tileCount := s.tileCount + 1 }

/-- TLDATA d (R118): CONFIGURATION_ERROR(3) with no load open, CONFIGURATION_ERROR(4) when side² bytes are in. -/
def execTldata (d : Byte) (s : State) : StepOutcome :=
  if !s.tileLoading then raise Opcode.tldata.bits .configurationError 3 s
  else if s.tileCount.toNat = s.tileArea then raise Opcode.tldata.bits .configurationError 4 s
  else finish (tileAppend d s)

/-- TLEND (R119): CONFIGURATION_ERROR(3) with no load open, CONFIGURATION_ERROR(5) unless side² bytes are in. -/
def execTlend (s : State) : StepOutcome :=
  if !s.tileLoading then raise Opcode.tlend.bits .configurationError 3 s
  else if s.tileCount.toNat ≠ s.tileArea then raise Opcode.tlend.bits .configurationError 5 s
  else complete s.closeLoad

/-- MemRead(BAYER_ROM, 8·(r mod 8) + (c mod 8), 1) (R60, R122). -/
def tileValueBayer (p : Params) (r c : Nat) : Nat :=
  (p.bayerRom.get ⟨8 * (r % 8) + c % 8, by omega⟩).toNat

/-- The threshold compared in mode BAYER: 4 times the entry (R122). -/
def bayerThreshold (p : Params) (r c : Nat) : Nat := bayerScale * tileValueBayer p r c

/-- MemRead(TLUT, (r mod S)·S + (c mod S), 1) with S = TILE_SIDE (R61, R120). R12 defines mod only for S > 0. -/
def tileValueBlue (r c : Nat) (s : State) : Except Fault Byte :=
  let side := s.tileSide.toNat
  if side = 0 then .error .tileSideZero
  else memRead .tlut (tlutSize s.params) s.tlut (r % side * side + c % side)

end Sys2Proof.Machine
end

