-- ==== Sys2Proof/Machine/Ordered.lean ====
section
/-! DEFINITION. The two ordered comparators (43_ordered.md): Bayer `>=` against 4 times the entry, blue noise `>` against
the entry. They are two definitions on purpose (R145). -/

namespace Sys2Proof.Machine

/-- Bayer comparison (R142): light when s ≥ t. -/
def bayerQuantize (sample : Byte) (threshold : Nat) : Byte := quantized (decide (threshold ≤ sample.toNat))

/-- Blue-noise comparison (R143): light when s > t. -/
def blueQuantize (sample threshold : Byte) : Byte := quantized (decide (threshold.toNat < sample.toNat))

/-- decide in mode BAYER (R142). -/
def decideBayer (sample : Byte) (s : State) : Byte :=
  bayerQuantize sample (bayerThreshold s.params s.row s.col.toNat)

/-- decide in mode BLUE (R143). -/
def decideBlue (sample : Byte) (s : State) : Except Fault Byte :=
  match tileValueBlue s.row s.col.toNat s with
  | .error f => .error f
  | .ok t => .ok (blueQuantize sample t)

end Sys2Proof.Machine
end

