-- ==== Sys2Proof/Machine/Packer.lean ====
section
/-! DEFINITION. The bit packer (45_packer.md). -/

namespace Sys2Proof.Machine

/-- isDark(q) (R164): PACK_LE selects `<=` or `<`. -/
def isDark (packLe : Bool) (q : Byte) : Bool :=
  if packLe then decide (q.toNat ≤ packThreshold) else decide (q.toNat < packThreshold)

/-- ((PACK_ACC << 1) | bit) & 0xFF (R163). -/
def shiftIn (acc : BitVec 8) (bit : Bool) : BitVec 8 := (acc <<< 1) ||| (BitVec.ofBool bit).setWidth 8

/-- (a << (8 − n)) & 0xFF: a partial group left-aligned (R163, R165, 90_conflicts.md C3). -/
def leftAlign (a : BitVec 8) (n : Nat) : Byte := a <<< (8 - n)

/-- pack(bit, last) (R163). -/
def pack (bit last : Bool) (s : State) : Except Fault State :=
  let a := shiftIn s.packAcc bit
  let n := s.packN.toNat + 1
  if n = 8 ∨ last = true then
    match payloadAppend (leftAlign a n) s with
    | .error f => .error f
    | .ok t => .ok { t with packAcc := 0, packN := 0 }
  else .ok { s with packAcc := a, packN := s.packN + 1 }

end Sys2Proof.Machine
end

