-- ==== Sys2Proof/Machine/Stream.lean ====
section
/-! DEFINITION. START, PIX and END (42_stream.md). -/

namespace Sys2Proof.Machine

/-- START (R130): CONTRACT_VIOLATION(2), CONTRACT_VIOLATION(3), CONFIGURATION_ERROR(6), then the stream opens. -/
def execStart (s : State) : StepOutcome :=
  if s.active then raise Opcode.start.bits .contractViolation 2 s
  else if s.w = 0 then raise Opcode.start.bits .contractViolation 3 s
  else if s.mode = .blue ∧ s.tileValid = false then raise Opcode.start.bits .configurationError 6 s
  else
    complete
      { s with
        acc0 := zeroAcc s.params
        acc1 := zeroAcc s.params
        acc2 := zeroAcc s.params
        col := 0
        row := 0
        packAcc := 0
        packN := 0 }.openStream

/-- decide(MODE, s, c, r) (R141), with the accumulator writes of FS and ATK. PASS answers the sample (R160). -/
def ditherDecide (sample : Byte) (s : State) : Except Fault (Byte × State) :=
  match s.mode with
  | .bayer => .ok (decideBayer sample s, s)
  | .blue =>
    match decideBlue sample s with
    | .error f => .error f
    | .ok q => .ok (q, s)
  | .fs => decideFs sample s
  | .atk => decideAtk sample s
  | .pass => .ok (sample, s)

/-- The rotation a row end makes, by mode (R135). -/
def rotate (s : State) : State :=
  match s.mode with
  | .fs => rotateFs s
  | .atk => rotateAtk s
  | .bayer => s
  | .blue => s
  | .pass => s

/-- row_end() (R135). -/
def rowEnd (s : State) : State :=
  { rotate s with row := s.row + 1, col := 0, payloadRows := s.payloadRows + 1 }

/-- The last line of PIX: a row end, or the next column (R131, R134). -/
def advance (last : Bool) (s : State) : State := if last then rowEnd s else { s with col := s.col + 1 }

/-- The PIX datapath (R134): decide, isDark, pack, then the row end or the next column. -/
def pixDatapath (sample : Byte) (last : Bool) (s : State) : Except Fault State :=
  match ditherDecide sample s with
  | .error f => .error f
  | .ok (q, t) =>
    match pack (isDark t.packLe q) last t with
    | .error f => .error f
    | .ok u => .ok (advance last u)

/-- PIX s, last (R131): the row-length checks (R132), the capacity check (R133), then the datapath. Over the integers
COL < W − 1 is COL + 1 < W, and COL = W − 1 is COL + 1 = W. -/
def execPix (sample : Byte) (last : Bool) (s : State) : StepOutcome :=
  if !s.active then raise Opcode.pix.bits .contractViolation 4 s
  else if last = true ∧ s.col.toNat + 1 < s.w.toNat then raise Opcode.pix.bits .contractViolation 5 s
  else if last = false ∧ s.col.toNat + 1 = s.w.toNat then raise Opcode.pix.bits .contractViolation 6 s
  else if (s.packN = 7 ∨ last = true) ∧ s.payloadLen.toNat = pbufBytes then
    raise Opcode.pix.bits .payloadOverflow 0 s
  else finish (pixDatapath sample last s)

/-- END (R136): CONTRACT_VIOLATION(4), CONTRACT_VIOLATION(7), then the stream closes. -/
def execEndStream (s : State) : StepOutcome :=
  if !s.active then raise Opcode.endStream.bits .contractViolation 4 s
  else if s.col ≠ 0 then raise Opcode.endStream.bits .contractViolation 7 s
  else complete s.closeStream

end Sys2Proof.Machine
end

