-- ==== Sys2Proof/Machine/Dispatch.lean ====
section
/-! DEFINITION. One arm per command: exec(OPC, w) of R95 with FAULT = 0, the CMD_COUNT of R95 included. -/

namespace Sys2Proof.Machine

def exec (i : Instr) (s : State) : Host.Outcome State Fault Refusal :=
  match i with
  | .nop => Sys2Proof.Machine.execNop s
  | .srst => Sys2Proof.Machine.execSrst s
  | .setw w => Sys2Proof.Machine.execSetw w s
  | .setmode m => Sys2Proof.Machine.execSetmode m s
  | .setcmp atkGe packLe => Sys2Proof.Machine.execSetcmp atkGe packLe s
  | .setfw v => Sys2Proof.Machine.execSetfw v s
  | .setfh v => Sys2Proof.Machine.execSetfh v s
  | .tlbegin side => Sys2Proof.Machine.execTlbegin side s
  | .tldata d => Sys2Proof.Machine.execTldata d s
  | .tlend => Sys2Proof.Machine.execTlend s
  | .start => Sys2Proof.Machine.execStart s
  | .pix sample last => Sys2Proof.Machine.execPix sample last s
  | .endStream => Sys2Proof.Machine.execEndStream s
  | .build => Sys2Proof.Machine.execBuild s
  | .builda => Sys2Proof.Machine.execBuilda s

end Sys2Proof.Machine
end

