-- ==== Sys2Proof/Machine/Channel.lean ====
section
/-! DEFINITION. What one host input does to the core: a command word (R79, R95, R207), a hardware reset (R220), a reset
that cuts a command short (R222, R227), a held transport (R65, R226). `step` only calls these. -/

namespace Sys2Proof.Machine

/-- The common step of R95 on one word: discarded while FAULT = 1 unless it is exactly the SRST word (R207), else
decoded (R79) and executed. -/
def runWord (w : CommandWord) (s : State) : StepOutcome :=
  if s.fault then
    if w = srstWord then .next (resetState s) else .next s
  else
    match decode w with
    | .error e => raise (opcField w) .illegalCommand e.info s
    | .ok i => exec i s

/-- The bytes a word would emit if it ran to its end. -/
def emittedBy (w : CommandWord) (s : State) : List Byte :=
  match runWord w s with
  | .next t => t.out.drop s.out.length
  | .fault _ => []
  | .refused _ => []

/-- The core holds: the word emits and the transport takes no byte (R65, R226). -/
def holds (w : CommandWord) (s : State) : Bool := !s.transportReady && !(emittedBy w s).isEmpty

/-- rst_i during the command `w` (R222, R227): its effects are discarded but for the bytes the transport had taken, the
first `n` of those it emits (93_implementation_defined.md I8). -/
def cutByReset (w : CommandWord) (n : Nat) (s : State) : State :=
  resetState (emit ((emittedBy w s).take n) s)

/-- One input taken from the channel; `rest` is what remains. A held core takes nothing and changes nothing. -/
def takeInput (i : HostInput) (rest : List HostInput) (s : State) : StepOutcome :=
  match i with
  | .command w => if holds w s then .next s else runWord w { s with input := rest }
  | .hardReset => .next (resetState { s with input := rest })
  | .resetDuring w n => .next (cutByReset w n { s with input := rest })
  | .wordDuringReset w => .refused (.wordDuringReset w)

/-- A word put at the head of the command channel, to be taken next. -/
def pushWord (w : CommandWord) (s : State) : State := { s with input := .command w :: s.input }

end Sys2Proof.Machine
end

