-- ==== Sys2Proof/Machine/Assembler.lean ====
section
/-! DEFINITION. The spec's assembler: one line of R85 to commands, the pseudo-instructions of R86 among them. A value that
does not fit its field is refused, never truncated (R85). Text details that R85 leaves open are in log 12. -/

namespace Sys2Proof.Machine

/-- An unsigned field of n bits; none when the value does not fit (R85). -/
def unsignedField (n : Nat) : Int → Option (BitVec n)
  | .ofNat k => if k < 2 ^ n then some (BitVec.ofNat n k) else none
  | .negSucc _ => none

/-- A signed 32-bit field; none when the value does not fit (R85). -/
def signedField (v : Int) : Option (BitVec 32) :=
  if -2147483648 ≤ v ∧ v ≤ 2147483647 then some (BitVec.ofInt 32 v) else none

/-- A field of one bit written 0 or 1. -/
def bitField (v : Int) : Option Bool := if v = 0 then some false else if v = 1 then some true else none

/-- A sample of a row (R86). -/
def pixOf (last : Bool) (v : Int) : Option Instr := (unsignedField 8 v).map fun s => .pix s last

/-- `ROWPIX s0, …, s(n−1)`: every sample a PIX, the last one a PIXL (R86). -/
def rowPix : List Int → Option (List Instr)
  | [] => none
  | [v] => (pixOf true v).map fun i => [i]
  | v :: u :: rest =>
    match pixOf false v, rowPix (u :: rest) with
    | some i, some is => some (i :: is)
    | _, _ => none

/-- The TLDATA commands of a list of bytes (R86). -/
def tileDatas : List Int → Option (List Instr)
  | [] => some []
  | v :: rest =>
    match unsignedField 8 v, tileDatas rest with
    | some d, some is => some (.tldata d :: is)
    | _, _ => none

/-- `SETFRAME w, h` is SETFW w then SETFH h (R86). -/
def setFrame (w h : Int) : Option (List Instr) :=
  match signedField w, signedField h with
  | some a, some b => some [.setfw a, .setfh b]
  | _, _ => none

/-- `TLOAD s, d0, …, d(s²−1)` is TLBEGIN s, the s² TLDATA, TLEND (R86); another number of bytes is refused. -/
def tileLoad (side : Int) (data : List Int) : Option (List Instr) :=
  match unsignedField 16 side, tileDatas data with
  | some s, some is =>
    if data.length = s.toNat * s.toNat then some (.tlbegin s :: is ++ [.tlend]) else none
  | _, _ => none

/-- The assembler's forms: mnemonic and operand values to commands (R85, R86). A form that makes an ill-formed command
(SETW 0, SETMODE 5) or a TLBEGIN side outside 1..TILE_MAX_SIDE is refused. -/
def assembleForm (p : Params) (mnemonic : String) (ops : List Int) : Option (List Instr) :=
  match mnemonic, ops with
  | "NOP", [] => some [.nop]
  | "SRST", [] => some [.srst]
  | "SETW", [w] => ((unsignedField 16 w).map Instr.setw).bind fun i => if i.wellFormed p then some [i] else none
  | "SETMODE", [m] => ((unsignedField 3 m).map Instr.setmode).bind fun i => if i.wellFormed p then some [i] else none
  | "SETCMP", [a, b] =>
    match bitField a, bitField b with
    | some atkGe, some packLe => some [.setcmp atkGe packLe]
    | _, _ => none
  | "SETFW", [v] => (signedField v).map fun x => [.setfw x]
  | "SETFH", [v] => (signedField v).map fun x => [.setfh x]
  | "TLBEGIN", [s] => if 1 ≤ s ∧ s ≤ p.tileMaxSide then (unsignedField 16 s).map fun x => [.tlbegin x] else none
  | "TLDATA", [d] => (unsignedField 8 d).map fun x => [.tldata x]
  | "TLEND", [] => some [.tlend]
  | "START", [] => some [.start]
  | "PIX", [s] => (pixOf false s).map fun i => [i]
  | "PIXL", [s] => (pixOf true s).map fun i => [i]
  | "END", [] => some [.endStream]
  | "BUILD", [] => some [.build]
  | "BUILDA", [] => some [.builda]
  | "ROWPIX", samples => rowPix samples
  | "SETFRAME", [w, h] => setFrame w h
  | "TLOAD", s :: data => if 1 ≤ s ∧ s ≤ p.tileMaxSide then tileLoad s data else none
  | _, _ => none

/-! ## Text -/

/-- A blank: space or tab. -/
def isBlank (c : Char) : Bool := c = ' ' || c = '\t'

/-- Blanks cut off both ends. -/
def trimBlanks (cs : List Char) : List Char := ((cs.dropWhile isBlank).reverse.dropWhile isBlank).reverse

/-- The value of a digit in a base up to 16. -/
def digitValue (base : Nat) (c : Char) : Option Nat :=
  let n := c.toNat
  let v :=
    if 48 ≤ n ∧ n ≤ 57 then n - 48
    else if 97 ≤ n ∧ n ≤ 102 then n - 87
    else if 65 ≤ n ∧ n ≤ 70 then n - 55
    else base
  if v < base then some v else none

/-- Digits read from the left. -/
def readDigits (base : Nat) : List Char → Nat → Option Nat
  | [], acc => some acc
  | c :: cs, acc =>
    match digitValue base c with
    | some d => readDigits base cs (acc * base + d)
    | none => none

/-- An unsigned number, decimal or 0x hex (R85). -/
def readNat : List Char → Option Nat
  | [] => none
  | '0' :: 'x' :: [] => none
  | '0' :: 'x' :: cs => readDigits 16 cs 0
  | cs => readDigits 10 cs 0

/-- A number with an optional minus sign (R85: SETFW and SETFH are signed). -/
def readInt : List Char → Option Int
  | '-' :: cs => (readNat cs).map fun n => -(n : Int)
  | cs => (readNat cs).map fun n => (n : Int)

/-- A mode name (R85), or a number. -/
def readMode (cs : List Char) : Option Int :=
  if cs = ['B', 'A', 'Y', 'E', 'R'] then some 0
  else if cs = ['B', 'L', 'U', 'E'] then some 1
  else if cs = ['F', 'S'] then some 2
  else if cs = ['A', 'T', 'K'] then some 3
  else if cs = ['P', 'A', 'S', 'S'] then some 4
  else readInt cs

/-- The pieces of a line between commas. -/
def splitCommas : List Char → List (List Char)
  | [] => [[]]
  | c :: cs =>
    match splitCommas cs with
    | [] => [[c]]
    | piece :: rest => if c = ',' then [] :: piece :: rest else (c :: piece) :: rest

/-- Every piece read, or none. -/
def readAll (read : List Char → Option Int) : List (List Char) → Option (List Int)
  | [] => some []
  | cs :: rest =>
    match read (trimBlanks cs), readAll read rest with
    | some v, some vs => some (v :: vs)
    | _, _ => none

/-- One line: a mnemonic, operands separated by commas, an optional `; comment` (R85). A line with nothing before its
comment makes no command. None means the assembler refuses the line. -/
def assembleLine (p : Params) (line : List Char) : Option (List Instr) :=
  let body := trimBlanks (line.takeWhile fun c => c ≠ ';')
  if body.isEmpty then some []
  else
    let name := body.takeWhile fun c => !isBlank c
    let rest := trimBlanks (body.dropWhile fun c => !isBlank c)
    let read := if name = ['S', 'E', 'T', 'M', 'O', 'D', 'E'] then readMode else readInt
    match (if rest.isEmpty then some [] else readAll read (splitCommas rest)) with
    | some ops => assembleForm p (String.ofList name) ops
    | none => none

end Sys2Proof.Machine
end

