-- ==== Sys2Proof/Machine/Csr.lean ====
section
/-! DEFINITION. The CSR read port (R38 to R53): a view of the state between two commands, without side effect. -/

namespace Sys2Proof.Machine

/-- CSR 0x01 ERROR (R40). -/
def State.errorBits (s : State) : Word32 := (s.errInfo ++ s.errOpc ++ s.errCode).setWidth 32

/-- CSR 0x04 CONFIG (R43). -/
def State.configBits (s : State) : Word32 :=
  (BitVec.ofBool s.packLe ++ BitVec.ofBool s.atkGe ++ 0#5 ++ s.mode.toBits ++ s.w).setWidth 32

/-- CSR 0x0B PACKER (R50). -/
def State.packerBits (s : State) : Word32 := (s.packN ++ s.packAcc).setWidth 32

/-- CSR 0x0C PAYLOAD (R51). -/
def State.payloadBits (s : State) : Word32 := (s.payloadRows ++ 0#3 ++ s.payloadLen).setWidth 32

/-- CSR 0x0D PARAMS (R52). -/
def paramsBits (p : Params) : Word32 :=
  ((BitVec.ofNat 16 p.tileMaxSide).setWidth 32 <<< 16) ||| (BitVec.ofNat 16 p.maxWidth).setWidth 32

/-- csr_read(index) (R38); unmapped indices read 0 (R53). -/
def csrRead (s : State) (index : BitVec 8) : Word32 :=
  match index.toNat with
  | 0x00 => s.statusBits
  | 0x01 => s.errorBits
  | 0x02 => s.errCmd
  | 0x03 => s.cmdCount
  | 0x04 => s.configBits
  | 0x05 => s.frameW
  | 0x06 => s.frameH
  | 0x07 => s.tileSide.setWidth 32
  | 0x08 => s.tileCount
  | 0x09 => s.col.setWidth 32
  | 0x0A => BitVec.ofNat 32 s.row
  | 0x0B => s.packerBits
  | 0x0C => s.payloadBits
  | 0x0D => paramsBits s.params
  | _ => 0

/-- What a run is observed by (R218): the bytes emitted and the 14 CSRs. -/
structure Observation where
  out : List Byte
  csrs : List Word32
deriving DecidableEq, Repr

/-- The observation of a state (R218). -/
def observe (s : State) : Observation :=
  { out := s.out, csrs := (List.range 14).map fun k => csrRead s (BitVec.ofNat 8 k) }

end Sys2Proof.Machine
end

