-- ==== Sys2Proof/Machine/Formats.lean ====
section
/-! DEFINITION. The two normative byte formats written as the spec's formulas (R87, R88), and the test-only inverse of
packing (R167). PIX and BUILD do not use them: statements compare what the machine does with these. -/

namespace Sys2Proof.Machine

/-- The bit b_x of a row of bits, 0 past its end (R87). -/
def rowBit (bits : List Bool) (x : Nat) : Bool := bits.getD x false

/-- byte_k of R87: the sum over t = 0..7 of b_(8k+t) · 2^(7−t), with 0 for every column past the row. -/
def packedByte (bits : List Bool) (k : Nat) : Byte :=
  BitVec.ofNat 8 (((List.range 8).map fun t => (rowBit bits (8 * k + t)).toNat * 2 ^ (7 - t)).sum)

/-- The packed row of R87: ceil(W/8) bytes. -/
def packedRow (bits : List Bool) : List Byte := (List.range ((bits.length + 7) / 8)).map (packedByte bits)

/-- The bit of column x in a list of bytes: (bytes[floorDiv(x, 8)] >> (7 − (x mod 8))) & 1 (R167). -/
def unpackBit (bytes : List Byte) (x : Nat) : Bool := (bytes.getD (x / 8) 0).getLsbD (7 - x % 8)

/-- unpack(bytes, W) (R167). -/
def unpackRow (bytes : List Byte) (w : Nat) : List Bool := (List.range w).map (unpackBit bytes)

/-- unpack's requirement: the bits at positions x ≥ W of the last byte are 0 (R167). -/
def paddingClear (bytes : List Byte) (w : Nat) : Bool :=
  (List.range (8 * bytes.length - w)).all fun t => !unpackBit bytes (w + t)

/-- The whole frame of R88 for a shape and a payload. -/
def frameBytes (w h : Nat) (payload : List Byte) : List Byte :=
  [0x1D, 0x76, 0x30, 0x00, BitVec.ofNat 8 w, BitVec.ofNat 8 (w / 256), BitVec.ofNat 8 h, BitVec.ofNat 8 (h / 256)]
    ++ payload

end Sys2Proof.Machine
end

