-- ==== Sys2Proof/Machine/HostSide.lean ====
section
/-! DEFINITION. The host's reference behaviour where the spec gives it (R123, R180, R217): the tile loader's commands, the
row batcher, and the end-of-run check. None of it is core behaviour. -/

namespace Sys2Proof.Machine

/-- The loader's commands for a square asset given as its rows (R123): TLBEGIN side, every byte in row-major order,
TLEND; none for an asset that is not square, which the loader must not send. -/
def loaderCommands (asset : List (List Byte)) : Option (List Instr) :=
  let side := asset.length
  if asset.all (fun row => row.length == side) then
    if side < 65536 then some (.tlbegin (BitVec.ofNat 16 side) :: asset.flatten.map Instr.tldata ++ [.tlend]) else none
  else none

/-- The pending group and the rest of the rows, batched (R180). -/
def batchFrom {α : Type} (size : Nat) : List α → List α → List (List α)
  | pending, [] => if pending.isEmpty then [] else [pending]
  | pending, row :: rest =>
    let group := pending ++ [row]
    if group.length = size then group :: batchFrom size [] rest else batchFrom size group rest

/-- batch(rows, size), the Row Batcher of R180 (§4.5), for size ≥ 1; none for a batch size of zero, a host-side error. -/
def batch {α : Type} (rows : List α) (size : Nat) : Option (List (List α)) :=
  if size = 0 then none else some (batchFrom size [] rows)

/-- The words of a list of commands, as the host sends them (R66). -/
def sends (is : List Instr) : List HostInput := is.map fun i => .command (encode i)

/-- The host appends inputs to what it has sent (R66, R72). -/
def State.sent (s : State) (inputs : List HostInput) : State := { s with input := s.input ++ inputs }

/-- R217, duty 6: every row was dithered, packed and emitted. -/
def State.drained (s : State) : Bool := !s.fault && !s.active && decide (s.payloadLen = 0)

end Sys2Proof.Machine
end

