-- ==== Sys2Proof/Safety.lean ====
section
/-! DEFINITION. The terms claims are stated in: the invariant of R57 and R162 in the form one step keeps, the reset values
of R58, the fault record of R205, the fault table of R204, what one PIX leaves (R163, R131), and rows as command lists.
Nothing here is called by the machine. -/

namespace Sys2Proof.Machine

/-! ## The invariant -/

/-- Elements 0 to n − 1 have all been written. -/
abbrev Memory.Written {α : Type} (m : Memory α) (n : Nat) : Prop := ∀ k, k < n → (m.read k).isSome = true

/-- Every listed index lies below n. -/
abbrev Memory.Within {α : Type} (m : Memory α) (n : Nat) : Prop := ∀ p ∈ m, p.1 < n

/-- The bound on |ACCk[x]| when the next column is c: the proof of R162 as a function of the position. Its largest values
are 192 (FS) and 144 (ATK); in the other modes the accumulators stay zero (decision D45). -/
def accLimit (mode : Mode) (k : AccName) (c x : Nat) : Nat :=
  match mode, k with
  | .fs, .acc0 => if x ≤ c then 192 else 108
  | .fs, .acc1 => if x + 1 < c then 108 else if x + 1 = c then 72 else if x = c then 12 else 0
  | .fs, .acc2 => 0
  | .atk, .acc0 => if x ≤ c then 144 else if x = c + 1 then 120 else 96
  | .atk, .acc1 => if x + 1 < c then 96 else if x + 1 = c then 72 else if x = c then 48 else 24
  | .atk, .acc2 => if x < c then 24 else 0
  | .bayer, _ => 0
  | .blue, _ => 0
  | .pass, _ => 0

/-- Element x of an array is written and within a bound. -/
abbrev accBounded (m : Memory AccWord) (x limit : Nat) : Prop :=
  (m.read x).any (fun v => decide (v.toInt.natAbs ≤ limit)) = true

/-- The accumulator clause of R57 (item 6), with the bounds of R162: every element of the three arrays is written and
bounded at the present column. -/
abbrev accInv (s : State) : Prop :=
  ∀ x, x < s.params.maxWidth →
    accBounded s.acc0 x (accLimit s.mode .acc0 s.col.toNat x) ∧
    accBounded s.acc1 x (accLimit s.mode .acc1 s.col.toNat x) ∧
    accBounded s.acc2 x (accLimit s.mode .acc2 s.col.toNat x)

/-- The invariant: R57 items 1 to 6, R162, the ranges of R24, R29 and R33, the exclusion of R29, R130's tile condition,
the fault record of R35 and R203, and the canonical form of every element memory within its space (R59). -/
structure CoreInv (s : State) : Prop where
  /-- R9. -/
  params : s.params.Legal
  /-- R24: 0 (unset) or a legal width. -/
  width : s.w.toNat ≤ s.params.maxWidth
  tlut_wf : s.tlut.wf
  tlut_within : s.tlut.Within (tlutSize s.params)
  acc0_wf : s.acc0.wf
  acc0_within : s.acc0.Within s.params.maxWidth
  acc1_wf : s.acc1.wf
  acc1_within : s.acc1.Within s.params.maxWidth
  acc2_wf : s.acc2.wf
  acc2_within : s.acc2.Within s.params.maxWidth
  pbuf_wf : s.pbuf.wf
  pbuf_within : s.pbuf.Within pbufBytes
  /-- R57 item 1. -/
  idle : s.active = false → s.col = 0 ∧ s.packN = 0 ∧ s.packAcc = 0
  /-- R57 item 2. -/
  stream : s.active = true →
    1 ≤ s.w.toNat ∧ s.col.toNat + 1 ≤ s.w.toNat ∧ s.packN.toNat = s.col.toNat % 8 ∧
      s.packAcc.toNat < 2 ^ s.packN.toNat
  /-- R130, R120: a blue-noise stream has a valid tile. -/
  blueTile : s.active = true → s.mode = .blue → s.tileValid = true
  /-- R29. -/
  tileExclusive : ¬(s.tileValid = true ∧ s.tileLoading = true)
  /-- R116: EMPTY. -/
  tileEmpty : s.tileValid = false → s.tileLoading = false → s.tileSide = 0 ∧ s.tileCount = 0
  /-- R57 item 3. -/
  tileLoading : s.tileLoading = true →
    1 ≤ s.tileSide.toNat ∧ s.tileSide.toNat ≤ s.params.tileMaxSide ∧ s.tileCount.toNat ≤ s.tileArea ∧
      s.tlut.Written s.tileCount.toNat
  /-- R57 item 4. -/
  tileValid : s.tileValid = true →
    1 ≤ s.tileSide.toNat ∧ s.tileSide.toNat ≤ s.params.tileMaxSide ∧ s.tileCount.toNat = s.tileArea ∧
      s.tlut.Written s.tileArea
  /-- R57 item 5 and R135. -/
  payload : s.payloadLen.toNat ≤ pbufBytes ∧ s.payloadRows.toNat ≤ s.payloadLen.toNat ∧
    s.pbuf.Written s.payloadLen.toNat
  /-- R57 item 6 and R162. -/
  accumulators : s.active = true → accInv s
  /-- R35, R200: no record without a fault. -/
  noRecord : s.fault = false → s.errCode = 0 ∧ s.errOpc = 0 ∧ s.errInfo = 0 ∧ s.errCmd = 0
  /-- R203: the code of a recorded fault is 1 to 7. -/
  record : s.fault = true → 1 ≤ s.errCode.toNat ∧ s.errCode.toNat ≤ 7

/-- R218: a run is good when FAULT = 0. -/
def State.good (s : State) : Bool := !s.fault

/-! ## Reset and faults -/

/-- The values of R58 and R221 in `t`, for a reset of `s`: every field R58 gives a value, what is not the core's, and
nothing about the arrays, which R58 leaves unspecified. OUT is stated apart. -/
structure ResetFrom (s t : State) : Prop where
  w : t.w = 0
  mode : t.mode = .bayer
  atkGe : t.atkGe = true
  packLe : t.packLe = true
  frameW : t.frameW = 0
  frameH : t.frameH = 0
  tileValid : t.tileValid = false
  tileLoading : t.tileLoading = false
  tileSide : t.tileSide = 0
  tileCount : t.tileCount = 0
  active : t.active = false
  col : t.col = 0
  row : t.row = 0
  packAcc : t.packAcc = 0
  packN : t.packN = 0
  payloadLen : t.payloadLen = 0
  payloadRows : t.payloadRows = 0
  cmdCount : t.cmdCount = 0
  fault : t.fault = false
  errCode : t.errCode = 0
  errOpc : t.errOpc = 0
  errInfo : t.errInfo = 0
  errCmd : t.errCmd = 0
  params : t.params = s.params
  transportReady : t.transportReady = s.transportReady

/-- The host's next input is a reset: the exact SRST word (R91), or rst_i between or during commands (R220, R222). -/
def TakesReset (s : State) : Prop :=
  ∃ rest, s.input = .command 0x0100000000000000 :: rest ∨ s.input = .hardReset :: rest ∨
    ∃ w n, s.input = .resetDuring w n :: rest

/-- The state of R205: the fault record, CMD_COUNT advanced, all else as it was. -/
def faulted (s : State) (opc code info : BitVec 8) : State :=
  { s with
    fault := true
    errCode := code
    errOpc := opc
    errInfo := info
    errCmd := s.cmdCount
    cmdCount := s.cmdCount + 1 }

/-- The (code, info) pairs of R204. -/
def faultTable : List (BitVec 8 × BitVec 8) :=
  [(6, 1), (6, 2), (6, 3), (6, 4),
   (2, 1), (2, 2), (2, 3), (2, 4), (2, 5), (2, 6), (2, 7), (2, 8),
   (1, 1), (1, 2), (1, 3), (1, 4), (1, 5), (1, 6),
   (5, 0), (5, 1), (3, 0), (4, 0), (7, 0)]

/-- The whole-word masks and matches as R83 prints them. -/
def maskTable : List (Opcode × CommandWord × CommandWord) :=
  [(.nop, 0xFFFFFFFFFFFFFFFF, 0x0000000000000000), (.srst, 0xFFFFFFFFFFFFFFFF, 0x0100000000000000),
   (.setw, 0xFFFFFFFFFFFF0000, 0x1000000000000000), (.setmode, 0xFFFFFFFFFFFFFFF8, 0x1100000000000000),
   (.setcmp, 0xFFFFFFFFFFFFFFFC, 0x1200000000000000), (.setfw, 0xFFFFFFFF00000000, 0x1300000000000000),
   (.setfh, 0xFFFFFFFF00000000, 0x1400000000000000), (.tlbegin, 0xFFFFFFFFFFFF0000, 0x2000000000000000)]
  ++
  [(.tldata, 0xFFFFFFFFFFFFFF00, 0x2100000000000000), (.tlend, 0xFFFFFFFFFFFFFFFF, 0x2200000000000000),
   (.start, 0xFFFFFFFFFFFFFFFF, 0x3000000000000000), (.pix, 0xFFFFFFFFFFFFFE00, 0x3100000000000000),
   (.endStream, 0xFFFFFFFFFFFFFFFF, 0x3200000000000000), (.build, 0xFFFFFFFFFFFFFFFF, 0x4000000000000000),
   (.builda, 0xFFFFFFFFFFFFFFFF, 0x4100000000000000)]

/-! ## What one PIX leaves -/

/-- When a PIX is accepted (R131 to R133): a stream is open, last marks exactly the last column, and a byte it completes
finds room. -/
abbrev PixAccepted (last : Bool) (s : State) : Prop :=
  s.active = true ∧ (last = true ↔ s.col.toNat + 1 = s.w.toNat) ∧
    ((s.packN = 7 ∨ last = true) → s.payloadLen.toNat < 4096)

/-- a of R163 as a number: the packer's bits with one more. -/
def packedBits (s : State) (bit : Bool) : Nat := 2 * s.packAcc.toNat + bit.toNat

/-- The packing (R163) and the position (R131, R135) that a PIX with the decision `bit` leaves, from `s` to `t`. -/
structure PixEffect (s : State) (bit last : Bool) (t : State) : Prop where
  /-- A group of eight, or the row's end: one byte, the group's bits at its high end. -/
  byteOut : s.packN = 7 ∨ last = true →
    t.packAcc = 0 ∧ t.packN = 0 ∧ t.payloadLen.toNat = s.payloadLen.toNat + 1 ∧
      t.pbuf.read s.payloadLen.toNat =
        some (BitVec.ofNat 8 (packedBits s bit * 2 ^ (8 - (s.packN.toNat + 1)))) ∧
      ∀ k, k ≠ s.payloadLen.toNat → t.pbuf.read k = s.pbuf.read k
  /-- Otherwise one more bit waits in the packer, and the payload is as it was. -/
  bitHeld : ¬(s.packN = 7 ∨ last = true) →
    t.packAcc.toNat = packedBits s bit ∧ t.packN.toNat = s.packN.toNat + 1 ∧ t.payloadLen = s.payloadLen ∧
      t.pbuf = s.pbuf
  /-- The row's last sample (R135). -/
  rowDone : last = true → t.row = s.row + 1 ∧ t.col = 0 ∧ t.payloadRows.toNat = s.payloadRows.toNat + 1
  /-- Any other sample. -/
  nextColumn : last = false →
    t.row = s.row ∧ t.col.toNat = s.col.toNat + 1 ∧ t.payloadRows = s.payloadRows
  /-- Every other field but the accumulators: CMD_COUNT advances, the rest stays. -/
  frame : t =
    { s with
      packAcc := t.packAcc
      packN := t.packN
      pbuf := t.pbuf
      payloadLen := t.payloadLen
      payloadRows := t.payloadRows
      row := t.row
      col := t.col
      acc0 := t.acc0
      acc1 := t.acc1
      acc2 := t.acc2
      cmdCount := s.cmdCount + 1 }

/-- Element x of an array holds the integer v. -/
abbrev accHolds (m : Memory AccWord) (x : Nat) (v : Int) : Prop := ∃ b, m.read x = some b ∧ b.toInt = v

/-- The integer an element holds, 0 where none is written. -/
def accValue (m : Memory AccWord) (x : Nat) : Int := ((m.read x).map BitVec.toInt).getD 0

/-- What column x of ACC0 gains from column c of a row of w samples in FS (R153). -/
def fsGain0 (w c : Nat) (e : Int) (x : Nat) : Int := if x = c + 1 ∧ x < w then 7 * e else 0

/-- What column x of ACC1 gains in FS (R153). -/
def fsGain1 (w c : Nat) (e : Int) (x : Nat) : Int :=
  if x = c + 1 ∧ x < w then e else if x + 1 = c then 3 * e else if x = c then 5 * e else 0

/-- What column x of ACC0 gains in ATK (R156). -/
def atkGain0 (w c : Nat) (e : Int) (x : Nat) : Int := if (x = c + 1 ∨ x = c + 2) ∧ x < w then e else 0

/-- What column x of ACC1 gains in ATK (R156). -/
def atkGain1 (w c : Nat) (e : Int) (x : Nat) : Int :=
  if x = c + 1 ∧ x < w then e else if x + 1 = c then e else if x = c then e else 0

/-- What column x of ACC2 gains in ATK (R156). -/
def atkGain2 (c : Nat) (e : Int) (x : Nat) : Int := if x = c then e else 0

/-! ## Rows -/

/-- Commands executed one after another, stopping at the first stop. -/
def execAll : List Instr → State → StepOutcome
  | [], s => .next s
  | i :: rest, s =>
    match exec i s with
    | .next t => execAll rest t
    | .fault f => .fault f
    | .refused r => .refused r

/-- ROWPIX: a row of samples as PIX commands, last set on the final one (R86). -/
def rowCommands : List Byte → List Instr
  | [] => []
  | [v] => [.pix v true]
  | v :: u :: rest => .pix v false :: rowCommands (u :: rest)

/-- The dark decision at column c in the modes that keep no state (R142, R143, R160, R164, R168). -/
def orderedDark (s : State) (c : Nat) (sample : Byte) : Bool :=
  match s.mode with
  | .bayer => decide (sample.toNat < 4 * tileValueBayer s.params s.row c)
  | .blue =>
    let side := s.tileSide.toNat
    decide (sample.toNat ≤ ((s.tlut.read (s.row % side * side + c % side)).getD 0).toNat)
  | .pass => if s.packLe then decide (sample.toNat ≤ 0x3F) else decide (sample.toNat < 0x3F)
  | .fs => false
  | .atk => false

/-- The dark decisions of a whole row in those modes. -/
def orderedRowBits (s : State) (samples : List Byte) : List Bool :=
  samples.zipIdx.map fun p => orderedDark s p.2 p.1

end Sys2Proof.Machine
end

