-- ==== Sys2Proof/Certificates/Slice0/Obligations.lean ====
section
/-! DEFINITION. The statements for the provers, from the numbered rules of spec/. -/

open Sys2Proof Sys2Proof.Machine

/-! ## Encoding (30_encoding.md) -/

/-- R78, R80, R81, R83: no operand bit is dropped; every command comes back from its word. -/
def Obligations.DecodeInvertsEncode : Prop :=
  ∀ i : Instr, decode (encode i) = .ok i

/-- R82, R83: no word has two spellings; a word that decodes is the word of its command. -/
def Obligations.EncodeInvertsDecode : Prop :=
  ∀ (w : CommandWord) (i : Instr), decode w = .ok i → encode i = w

/-- R83: a word is the command X exactly when w & mask(X) = match(X) and, for SETW and SETMODE, the field value is
legal. The masks and matches are those R83 prints. -/
def Obligations.WordIsCommandExactlyOnMaskMatch : Prop :=
  ∀ (p : Params) (w : CommandWord), ∀ row ∈ maskTable,
    (∃ i, decode w = .ok i ∧ i.opcode = row.1 ∧ i.wellFormed p = true) ↔
      (w &&& row.2.1 = row.2.2 ∧
        (row.1 = .setw → 1 ≤ (w.extractLsb' 0 16).toNat ∧ (w.extractLsb' 0 16).toNat ≤ p.maxWidth) ∧
        (row.1 = .setmode → (w.extractLsb' 0 3).toNat ≤ 4))

/-- Words written out from R80 and R81, one for each family and operand form (a sanity statement). -/
def Obligations.SpecWordsDecode : Prop :=
  decode 0x0000000000000000 = .ok .nop ∧
  decode 0x1000000000000180 = .ok (.setw 384) ∧
  decode 0x1100000000000003 = .ok (.setmode 3) ∧
  decode 0x1200000000000002 = .ok (.setcmp false true) ∧
  decode 0x13000000FFFFFFFF = .ok (.setfw (-1)) ∧
  decode 0x2000000000000003 = .ok (.tlbegin 3) ∧
  decode 0x210000000000000A = .ok (.tldata 10) ∧
  decode 0x31000000000001FF = .ok (.pix 255 true) ∧
  decode 0x4100000000000000 = .ok .builda

/-- R79: with FAULT = 0 the checks are made in order and the first that fails raises ILLEGAL_COMMAND with info 1, 2, 3
or 4; the faulting word is consumed. The opcodes and must-be-zero bits are those of R83's table. -/
def Obligations.DecodeChecksRaiseInOrder : Prop :=
  ∀ (s : State) (w : CommandWord) (rest : List HostInput),
    s.input = .command w :: rest → s.fault = false →
    let opc := w.extractLsb' 56 8
    let after := { s with input := rest }
    ((∀ row ∈ maskTable, row.2.2.extractLsb' 56 8 ≠ opc) → step s = .next (faulted after opc 6 1)) ∧
    (∀ row ∈ maskTable, row.2.2.extractLsb' 56 8 = opc →
      (w.extractLsb' 32 24 ≠ 0 → step s = .next (faulted after opc 6 2)) ∧
      (w.extractLsb' 32 24 = 0 → (w &&& row.2.1).extractLsb' 0 32 ≠ 0 → step s = .next (faulted after opc 6 3)) ∧
      (w &&& row.2.1 = row.2.2 → row.1 = .setw →
        ¬(1 ≤ (w.extractLsb' 0 16).toNat ∧ (w.extractLsb' 0 16).toNat ≤ s.params.maxWidth) →
        step s = .next (faulted after opc 6 4)) ∧
      (w &&& row.2.1 = row.2.2 → row.1 = .setmode → 4 < (w.extractLsb' 0 3).toNat →
        step s = .next (faulted after opc 6 4)))

/-- R85, R86: the assembler never truncates. Every form that carries a value, the four pseudo-instructions among them,
is accepted exactly when each number written is the value of its field (and in the range R85 writes beside it: log 12), and
the commands it makes carry those numbers; every command of an accepted form is legal; a mode name stands for its number. -/
def Obligations.AssemblerNeverTruncates : Prop :=
  ∀ (p : Params) (is : List Instr),
    (∀ name ops, assembleForm p name ops = some is → ∀ i ∈ is, i.wellFormed p = true) ∧
    (∀ v : Int,
      (assembleForm p "SETW" [v] = some is ↔
        ∃ w : BitVec 16, (w.toNat : Int) = v ∧ 1 ≤ w.toNat ∧ w.toNat ≤ p.maxWidth ∧ is = [.setw w]) ∧
      (assembleForm p "SETMODE" [v] = some is ↔
        ∃ m : BitVec 3, (m.toNat : Int) = v ∧ m.toNat ≤ 4 ∧ is = [.setmode m]) ∧
      (assembleForm p "SETFW" [v] = some is ↔ ∃ x : BitVec 32, x.toInt = v ∧ is = [.setfw x]) ∧
      (assembleForm p "SETFH" [v] = some is ↔ ∃ x : BitVec 32, x.toInt = v ∧ is = [.setfh x]) ∧
      (assembleForm p "TLBEGIN" [v] = some is ↔
        ∃ side : BitVec 16, (side.toNat : Int) = v ∧ 1 ≤ side.toNat ∧ side.toNat ≤ p.tileMaxSide ∧
          is = [.tlbegin side]) ∧
      (assembleForm p "TLDATA" [v] = some is ↔ ∃ d : Byte, (d.toNat : Int) = v ∧ is = [.tldata d]) ∧
      (assembleForm p "PIX" [v] = some is ↔ ∃ d : Byte, (d.toNat : Int) = v ∧ is = [.pix d false]) ∧
      (assembleForm p "PIXL" [v] = some is ↔ ∃ d : Byte, (d.toNat : Int) = v ∧ is = [.pix d true])) ∧
    (∀ u v : Int,
      (assembleForm p "SETCMP" [u, v] = some is ↔
        ∃ atkGe packLe : Bool, (atkGe.toNat : Int) = u ∧ (packLe.toNat : Int) = v ∧ is = [.setcmp atkGe packLe]) ∧
      (assembleForm p "SETFRAME" [u, v] = some is ↔
        ∃ w h : BitVec 32, w.toInt = u ∧ h.toInt = v ∧ is = [.setfw w, .setfh h])) ∧
    (∀ ops : List Int,
      (assembleForm p "ROWPIX" ops = some is ↔
        ∃ samples : List Byte, samples.map (fun b => (b.toNat : Int)) = ops ∧ samples ≠ [] ∧
          is = rowCommands samples) ∧
      (assembleForm p "TLOAD" ops = some is ↔
        ∃ (side : BitVec 16) (data : List Byte), (side.toNat : Int) :: data.map (fun b => (b.toNat : Int)) = ops ∧
          1 ≤ side.toNat ∧ side.toNat ≤ p.tileMaxSide ∧ data.length = side.toNat * side.toNat ∧
          is = .tlbegin side :: data.map Instr.tldata ++ [.tlend])) ∧
    ∀ m ∈ [("BAYER", 0), ("BLUE", 1), ("FS", 2), ("ATK", 3), ("PASS", 4)],
      assembleLine p ("SETMODE " ++ m.1).toList = some [.setmode m.2]

/-- R86: ROWPIX, SETFRAME and TLOAD expand to the command lists R86 gives, for every value their fields hold. -/
def Obligations.PseudoInstructionsExpand : Prop :=
  (∀ (p : Params) (samples : List Byte), samples ≠ [] →
    assembleForm p "ROWPIX" (samples.map fun b => (b.toNat : Int)) = some (rowCommands samples)) ∧
  (∀ (p : Params) (v : Byte), assembleForm p "PIXL" [(v.toNat : Int)] = some [.pix v true] ∧
    encode (.pix v true) = 0x3100000000000100 ||| v.setWidth 64) ∧
  (∀ (p : Params) (w h : BitVec 32), assembleForm p "SETFRAME" [w.toInt, h.toInt] = some [.setfw w, .setfh h]) ∧
  (∀ (p : Params) (side : BitVec 16) (data : List Byte), 1 ≤ side.toNat → side.toNat ≤ p.tileMaxSide →
    data.length = side.toNat * side.toNat →
    assembleForm p "TLOAD" ((side.toNat : Int) :: data.map fun b => (b.toNat : Int)) =
      some (.tlbegin side :: data.map Instr.tldata ++ [.tlend]))

/-! ## The step (R95, R207, R65, R220) -/

/-- R95: with FAULT = 0, a word that decodes and a transport that takes bytes, a step is exec of the decoded command on
the state whose channel has lost the word. -/
def Obligations.StepRunsDecodedCommand : Prop :=
  ∀ (s : State) (w : CommandWord) (rest : List HostInput) (i : Instr),
    s.input = .command w :: rest → s.fault = false → s.transportReady = true → decode w = .ok i →
    step s = exec i { s with input := rest }

/-- R65, R226 as the model has them (log 10): with a transport that takes no bytes, a command that would emit is held,
the state unchanged; any other command runs as if the transport were ready. -/
def Obligations.BlockedTransportHoldsTheCore : Prop :=
  ∀ (s t : State) (w : CommandWord) (rest : List HostInput) (i : Instr),
    s.input = .command w :: rest → s.fault = false → s.transportReady = false → decode w = .ok i →
    exec i { s with input := rest } = .next t →
    (t.out ≠ s.out → step s = .next s) ∧ (t.out = s.out → step s = .next t)

/-- R207, R208, R91: while FAULT = 1 every word other than 0x0100000000000000 is discarded, with no effect on any state,
and exactly 0x0100000000000000 resets the core; emitted bytes stay (R36). -/
def Obligations.FaultedCoreAcceptsSrstOnly : Prop :=
  ∀ (s : State) (w : CommandWord) (rest : List HostInput),
    s.input = .command w :: rest → s.fault = true →
    (w ≠ 0x0100000000000000 → step s = .next { s with input := rest }) ∧
    (w = 0x0100000000000000 →
      ∃ t, step s = .next t ∧ ResetFrom s t ∧ t.out = s.out ∧ t.input = rest)

/-- R216, R222: with no command the core waits and holds its state. The empty channel is the model's picture of it
(log 3). -/
def Obligations.EmptyChannelHoldsState : Prop :=
  ∀ s : State, s.input = [] → step s = .next s

/-- R58, R220, R221: both reset sources, the hardware reset input and the SRST command, complete in every state and give
every field its value of R58; OUT is not retracted. -/
def Obligations.ResetsGiveResetValues : Prop :=
  (∀ (s : State) (rest : List HostInput), s.input = .hardReset :: rest →
    ∃ t, step s = .next t ∧ ResetFrom s t ∧ t.out = s.out ∧ t.input = rest) ∧
  (∀ s : State, ∃ t, exec .srst s = .next t ∧ ResetFrom s t ∧ t.out = s.out ∧ t.input = s.input)

/-- R222, R227 and 93_implementation_defined.md I8: a reset during a command discards its effects but for a first part of
the bytes it emits. The length is the host's (log 8). -/
def Obligations.ResetDuringCommandKeepsEmittedPart : Prop :=
  ∀ (s u : State) (w : CommandWord) (n : Nat) (rest : List HostInput),
    s.input = .resetDuring w n :: rest → runWord w { s with input := rest } = .next u →
    ∃ t frame, step s = .next t ∧ ResetFrom s t ∧ u.out = s.out ++ frame ∧ t.out = s.out ++ frame.take n ∧
      t.input = rest

/-- R227 and I17: the schedule with a word sent while rst_i is asserted is refused by name. -/
def Obligations.WordDuringResetIsRefused : Prop :=
  ∀ (s : State) (w : CommandWord) (rest : List HostInput), s.input = .wordDuringReset w :: rest →
    step s = .refused (.wordDuringReset w)

/-! ## Control (40_control.md) -/

/-- R90: NOP completes in every state and writes CMD_COUNT only. -/
def Obligations.NopAdvancesCountOnly : Prop :=
  ∀ s : State, exec .nop s = .next { s with cmdCount := s.cmdCount + 1 }

/-- R92: outside a stream, SETW of a legal width completes and writes W and CMD_COUNT only. -/
def Obligations.SetwWritesWidth : Prop :=
  ∀ (s : State) (w : BitVec 16), 1 ≤ w.toNat → w.toNat ≤ s.params.maxWidth → s.active = false →
    exec (.setw w) s = .next { s with w := w, cmdCount := s.cmdCount + 1 }

/-- R93, R25: outside a stream, SETMODE of 0 to 4 completes and writes MODE and CMD_COUNT only. -/
def Obligations.SetmodeWritesMode : Prop :=
  ∀ (s : State), ∀ mode ∈ [(0, Mode.bayer), (1, .blue), (2, .fs), (3, .atk), (4, .pass)], s.active = false →
    exec (.setmode mode.1) s = .next { s with mode := mode.2, cmdCount := s.cmdCount + 1 }

/-- R94: outside a stream, SETCMP completes and writes ATK_GE, PACK_LE and CMD_COUNT only. -/
def Obligations.SetcmpWritesComparators : Prop :=
  ∀ (s : State) (a b : Bool), s.active = false →
    exec (.setcmp a b) s = .next { s with atkGe := a, packLe := b, cmdCount := s.cmdCount + 1 }

/-- R92, R93, R94 in the order of R209: an illegal field value faults ILLEGAL_COMMAND(4), stream or not, and a legal one
during a stream CONTRACT_VIOLATION(1). -/
def Obligations.ConfigurationCommandsFaultInOrder : Prop :=
  ∀ s : State,
    (∀ w : BitVec 16, w.toNat = 0 ∨ s.params.maxWidth < w.toNat → exec (.setw w) s = .next (faulted s 0x10 6 4)) ∧
    (∀ m : BitVec 3, 4 < m.toNat → exec (.setmode m) s = .next (faulted s 0x11 6 4)) ∧
    (s.active = true →
      (∀ w : BitVec 16, 1 ≤ w.toNat → w.toNat ≤ s.params.maxWidth →
        exec (.setw w) s = .next (faulted s 0x10 2 1)) ∧
      (∀ m : BitVec 3, m.toNat ≤ 4 → exec (.setmode m) s = .next (faulted s 0x11 2 1)) ∧
      (∀ a b : Bool, exec (.setcmp a b) s = .next (faulted s 0x12 2 1)))

/-- R172, R173: SETFW and SETFH complete in every state with every value, and write one operand and CMD_COUNT only. -/
def Obligations.FrameOperandsHoldEveryValue : Prop :=
  ∀ (s : State) (v : BitVec 32),
    exec (.setfw v) s = .next { s with frameW := v, cmdCount := s.cmdCount + 1 } ∧
    exec (.setfh v) s = .next { s with frameH := v, cmdCount := s.cmdCount + 1 }

/-! ## Tile (41_tile.md) -/

/-- R117: from EMPTY, TLBEGIN of a legal side completes and opens the load. -/
def Obligations.TlbeginOpensLoad : Prop :=
  ∀ (s : State) (side : BitVec 16), s.tileValid = false → s.tileLoading = false →
    1 ≤ side.toNat → side.toNat ≤ s.params.tileMaxSide →
    exec (.tlbegin side) s =
      .next { s with tileSide := side, tileCount := 0, tileLoading := true, cmdCount := s.cmdCount + 1 }

/-- R118, R61: with a load open and not full, TLDATA completes, writes TLUT[TILE_COUNT] and no other element, and counts
it. -/
def Obligations.TldataWritesNextElement : Prop :=
  ∀ (s : State) (d : Byte), CoreInv s → s.tileLoading = true →
    s.tileCount.toNat < s.tileSide.toNat * s.tileSide.toNat →
    ∃ t, exec (.tldata d) s = .next t ∧
      t = { s with tlut := t.tlut, tileCount := t.tileCount, cmdCount := s.cmdCount + 1 } ∧
      t.tileCount.toNat = s.tileCount.toNat + 1 ∧
      t.tlut.read s.tileCount.toNat = some d ∧
      ∀ k, k ≠ s.tileCount.toNat → t.tlut.read k = s.tlut.read k

/-- R119: with side² bytes loaded, TLEND completes, clears TILE_LOADING and sets TILE_VALID, and keeps the rest. -/
def Obligations.TlendMakesTileValid : Prop :=
  ∀ s : State, s.tileLoading = true → s.tileCount.toNat = s.tileSide.toNat * s.tileSide.toNat →
    exec .tlend s = .next { s with tileLoading := false, tileValid := true, cmdCount := s.cmdCount + 1 }

/-- R117, R118, R119 in the order of R209: the tile load protocol's faults. -/
def Obligations.TileCommandsFaultInOrder : Prop :=
  ∀ s : State,
    (∀ side : BitVec 16, s.tileValid = true ∨ s.tileLoading = true →
      exec (.tlbegin side) s = .next (faulted s 0x20 1 1)) ∧
    (∀ side : BitVec 16, s.tileValid = false → s.tileLoading = false →
      side.toNat = 0 ∨ s.params.tileMaxSide < side.toNat → exec (.tlbegin side) s = .next (faulted s 0x20 1 2)) ∧
    (s.tileLoading = false →
      (∀ d : Byte, exec (.tldata d) s = .next (faulted s 0x21 1 3)) ∧
      exec .tlend s = .next (faulted s 0x22 1 3)) ∧
    (s.tileLoading = true →
      (s.tileCount.toNat = s.tileSide.toNat * s.tileSide.toNat →
        ∀ d : Byte, exec (.tldata d) s = .next (faulted s 0x21 1 4)) ∧
      (s.tileCount.toNat ≠ s.tileSide.toNat * s.tileSide.toNat → exec .tlend s = .next (faulted s 0x22 1 5)))

/-- R116, R29: the tile state moves only EMPTY → LOADING → VALID, and back to EMPTY by a reset alone. A step that takes no
reset keeps a valid tile whole; keeps an open load's side and loaded entries, appends at most one entry at TILE_COUNT, and
closes it to VALID only when side² bytes are in; and from EMPTY at most opens a load of a legal side with no byte in. -/
def Obligations.TileIsWrittenOnce : Prop :=
  ∀ s t : State, CoreInv s → step s = .next t →
    (TakesReset s → ResetFrom s t) ∧
    (¬TakesReset s →
      (s.tileValid = true →
        t.tileValid = true ∧ t.tileLoading = false ∧ t.tlut = s.tlut ∧ t.tileSide = s.tileSide ∧
          t.tileCount = s.tileCount) ∧
      (s.tileLoading = true →
        t.tileSide = s.tileSide ∧
        ((t.tileValid = true ∧ t.tileLoading = false ∧ t.tlut = s.tlut ∧ t.tileCount = s.tileCount ∧
            s.tileCount.toNat = s.tileSide.toNat * s.tileSide.toNat) ∨
          (t.tileValid = false ∧ t.tileLoading = true ∧ t.tlut = s.tlut ∧ t.tileCount = s.tileCount) ∨
          (t.tileValid = false ∧ t.tileLoading = true ∧ t.tileCount.toNat = s.tileCount.toNat + 1 ∧
            ∀ k, k ≠ s.tileCount.toNat → t.tlut.read k = s.tlut.read k))) ∧
      (s.tileValid = false → s.tileLoading = false →
        t.tileValid = false ∧ t.tlut = s.tlut ∧ t.tileCount = 0 ∧
          (t.tileLoading = false → t.tileSide = 0) ∧
          (t.tileLoading = true → 1 ≤ t.tileSide.toNat ∧ t.tileSide.toNat ≤ s.params.tileMaxSide)))

/-- R123, R61, R117 to R119: the loader's commands for a square asset, from EMPTY, complete and leave the tile VALID with
the pixel of asset row r and column c in TLUT[r·S + c]; nothing else of the core changes but CMD_COUNT. -/
def Obligations.LoaderFillsTileRowMajor : Prop :=
  ∀ (s : State) (asset : List (List Byte)) (cmds : List Instr), CoreInv s → s.tileValid = false → s.tileLoading = false →
    1 ≤ asset.length → asset.length ≤ s.params.tileMaxSide → loaderCommands asset = some cmds →
    ∃ t, execAll cmds s = .next t ∧
      t = { s with
        tileValid := true, tileSide := t.tileSide, tileCount := t.tileCount, tlut := t.tlut, cmdCount := t.cmdCount } ∧
      t.tileSide.toNat = asset.length ∧ t.tileCount.toNat = asset.length * asset.length ∧
      ∀ r c, r < asset.length → c < asset.length →
        t.tlut.read (r * asset.length + c) = (asset[r]?.bind fun row => row[c]?)

/-! ## Stream (42_stream.md to 45_packer.md) -/

/-- R130: outside a stream, with W set and the tile valid where MODE = BLUE needs it, START completes, zeroes every
element of the three accumulators, restarts COL, ROW and the packer, and leaves the rest. -/
def Obligations.StartOpensZeroedStream : Prop :=
  ∀ s : State, s.active = false → s.w ≠ 0 → (s.mode = .blue → s.tileValid = true) →
    ∃ t, exec .start s = .next t ∧
      t = { s with
        active := true, col := 0, row := 0, packAcc := 0, packN := 0
        acc0 := t.acc0, acc1 := t.acc1, acc2 := t.acc2, cmdCount := s.cmdCount + 1 } ∧
      ∀ x, x < s.params.maxWidth → accHolds t.acc0 x 0 ∧ accHolds t.acc1 x 0 ∧ accHolds t.acc2 x 0

/-- R142, R122, R60, with R163, R168 and R135: in BAYER an accepted PIX completes; its bit is dark exactly when the sample
lies below four times the ROM entry at (ROW mod 8, COL mod 8); the accumulators stay. -/
def Obligations.PixBayerResult : Prop :=
  ∀ (s : State) (sample : Byte) (last : Bool), CoreInv s → s.mode = .bayer → PixAccepted last s →
    ∃ t, exec (.pix sample last) s = .next t ∧
      PixEffect s
        (decide (sample.toNat < 4 * (s.params.bayerRom.toList.getD (8 * (s.row % 8) + s.col.toNat % 8) 0).toNat)) last t ∧
      t.acc0 = s.acc0 ∧ t.acc1 = s.acc1 ∧ t.acc2 = s.acc2

/-- R143, R120, R61, with R163, R168 and R135: in BLUE an accepted PIX completes; its bit is dark exactly when the sample
does not exceed the tile entry at (ROW mod S, COL mod S); the accumulators stay. -/
def Obligations.PixBlueResult : Prop :=
  ∀ (s : State) (sample : Byte) (last : Bool), CoreInv s → s.mode = .blue → PixAccepted last s →
    ∃ (t : State) (v : Byte),
      s.tlut.read (s.row % s.tileSide.toNat * s.tileSide.toNat + s.col.toNat % s.tileSide.toNat) = some v ∧
      exec (.pix sample last) s = .next t ∧ PixEffect s (decide (sample.toNat ≤ v.toNat)) last t ∧
      t.acc0 = s.acc0 ∧ t.acc1 = s.acc1 ∧ t.acc2 = s.acc2

/-- R160, R164, with R163 and R135: in PASS an accepted PIX completes; its bit is isDark of the raw sample under PACK_LE;
the accumulators stay. -/
def Obligations.PixPassResult : Prop :=
  ∀ (s : State) (sample : Byte) (last : Bool), CoreInv s → s.mode = .pass → PixAccepted last s →
    ∃ t, exec (.pix sample last) s = .next t ∧
      PixEffect s (if s.packLe then decide (sample.toNat ≤ 0x3F) else decide (sample.toNat < 0x3F)) last t ∧
      t.acc0 = s.acc0 ∧ t.acc1 = s.acc1 ∧ t.acc2 = s.acc2

/-- R152, R153, R154: in FS an accepted PIX completes; total, q and the floored error are those of R152, the shares those
of R153, and a row's last sample rotates the arrays as R154 says. ACC2 is not touched. -/
def Obligations.PixFloydSteinbergResult : Prop :=
  ∀ (s : State) (sample : Byte) (last : Bool), CoreInv s → s.mode = .fs → PixAccepted last s →
    let c := s.col.toNat
    let w := s.w.toNat
    let total : Int := sample.toNat + accValue s.acc0 c
    let q : Int := if total > 63 then 255 else 0
    let e : Int := (total - q).fdiv 16
    ∃ t, exec (.pix sample last) s = .next t ∧ PixEffect s (decide (total ≤ 63)) last t ∧ t.acc2 = s.acc2 ∧
      ∀ x, x < s.params.maxWidth →
        (last = false →
          accHolds t.acc0 x (accValue s.acc0 x + fsGain0 w c e x) ∧
          accHolds t.acc1 x (accValue s.acc1 x + fsGain1 w c e x)) ∧
        (last = true →
          accHolds t.acc0 x (accValue s.acc1 x + fsGain1 w c e x) ∧ accHolds t.acc1 x 0)

/-- R155, R156, R158: in ATK an accepted PIX completes; the comparator follows ATK_GE, the error is floored by 8, the
shares are those of R156, and a row's last sample rotates the arrays as R158 says. -/
def Obligations.PixAtkinsonResult : Prop :=
  ∀ (s : State) (sample : Byte) (last : Bool), CoreInv s → s.mode = .atk → PixAccepted last s →
    let c := s.col.toNat
    let w := s.w.toNat
    let total : Int := sample.toNat + accValue s.acc0 c
    let isLight : Bool := if s.atkGe then decide (total ≥ 63) else decide (total > 63)
    let e : Int := (total - (if isLight then 255 else 0)).fdiv 8
    ∃ t, exec (.pix sample last) s = .next t ∧ PixEffect s (!isLight) last t ∧
      ∀ x, x < s.params.maxWidth →
        (last = false →
          accHolds t.acc0 x (accValue s.acc0 x + atkGain0 w c e x) ∧
          accHolds t.acc1 x (accValue s.acc1 x + atkGain1 w c e x) ∧
          accHolds t.acc2 x (accValue s.acc2 x + atkGain2 c e x)) ∧
        (last = true →
          accHolds t.acc0 x (accValue s.acc1 x + atkGain1 w c e x) ∧
          accHolds t.acc1 x (accValue s.acc2 x + atkGain2 c e x) ∧ accHolds t.acc2 x 0)

/-- R131, R132, R133 in the order of R209: PIX outside a stream, a row too short, a row too long, and a full payload
buffer; each takes the fault with none of PIX's effect. -/
def Obligations.PixFaultsInOrder : Prop :=
  ∀ (s : State) (sample : Byte) (last : Bool),
    (s.active = false → exec (.pix sample last) s = .next (faulted s 0x31 2 4)) ∧
    (s.active = true → last = true → s.col.toNat + 1 < s.w.toNat →
      exec (.pix sample last) s = .next (faulted s 0x31 2 5)) ∧
    (s.active = true → last = false → s.col.toNat + 1 = s.w.toNat →
      exec (.pix sample last) s = .next (faulted s 0x31 2 6)) ∧
    (s.active = true → (last = true ↔ s.col.toNat + 1 = s.w.toNat) → s.packN = 7 ∨ last = true →
      s.payloadLen.toNat = 4096 → exec (.pix sample last) s = .next (faulted s 0x31 7 0))

/-- R136: at a row boundary of an open stream, END completes and clears ACTIVE; ROW, the payload and the accumulators
stay. -/
def Obligations.EndClosesStream : Prop :=
  ∀ s : State, s.active = true → s.col = 0 →
    exec .endStream s = .next { s with active := false, cmdCount := s.cmdCount + 1 }

/-- R130 and R136 in the order of R209: START's and END's faults. -/
def Obligations.StartAndEndFaultInOrder : Prop :=
  ∀ s : State,
    (s.active = true → exec .start s = .next (faulted s 0x30 2 2)) ∧
    (s.active = false → s.w = 0 → exec .start s = .next (faulted s 0x30 2 3)) ∧
    (s.active = false → s.w ≠ 0 → s.mode = .blue → s.tileValid = false →
      exec .start s = .next (faulted s 0x30 1 6)) ∧
    (s.active = false → exec .endStream s = .next (faulted s 0x32 2 4)) ∧
    (s.active = true → s.col ≠ 0 → exec .endStream s = .next (faulted s 0x32 2 7))

/-- R167, R166: unpacking a packed row gives the row back; the padding is clear and the length is ceil(W/8). -/
def Obligations.UnpackInvertsPack : Prop :=
  ∀ bits : List Bool,
    unpackRow (packedRow bits) bits.length = bits ∧ paddingClear (packedRow bits) bits.length = true ∧
      (packedRow bits).length = (bits.length + 7) / 8

/-- R87, R134, R166, R168: a whole row sent as PIX commands in BAYER, BLUE or PASS completes and appends exactly the
packed row of R87, ceil(W/8) bytes, after the bytes buffered before, which stay. -/
def Obligations.RowOfPixelsAppendsPackedRow : Prop :=
  ∀ (s : State) (samples : List Byte), CoreInv s → s.active = true → s.col = 0 →
    s.mode = .bayer ∨ s.mode = .blue ∨ s.mode = .pass →
    samples.length = s.w.toNat → s.payloadLen.toNat + (s.w.toNat + 7) / 8 ≤ 4096 →
    ∃ t, execAll (rowCommands samples) s = .next t ∧
      t.payloadLen.toNat = s.payloadLen.toNat + (s.w.toNat + 7) / 8 ∧
      (∀ k, k < (s.w.toNat + 7) / 8 →
        t.pbuf.read (s.payloadLen.toNat + k) = (packedRow (orderedRowBits s samples))[k]?) ∧
      (∀ k, k < s.payloadLen.toNat → t.pbuf.read k = s.pbuf.read k) ∧
      t.row = s.row + 1 ∧ t.col = 0 ∧ t.packN = 0 ∧ t.packAcc = 0 ∧
      t.payloadRows.toNat = s.payloadRows.toNat + 1

/-! ## Frames (46_frame.md) -/

/-- R174, R175, R176, R88: BUILD of a shape that passes the checks completes: the frame of R88 with the buffered bytes in
order goes out whole, the payload is emptied, and nothing else changes. -/
def Obligations.BuildEmitsFrame : Prop :=
  ∀ (s : State) (w h : Nat), CoreInv s → s.col = 0 → s.frameW.toInt = w → s.frameH.toInt = h → w ≤ 65535 → h ≤ 65535 →
    w * h = s.payloadLen.toNat →
    ∃ bytes : List Byte, bytes.length = w * h ∧ (∀ k, k < w * h → s.pbuf.read k = bytes[k]?) ∧
      exec .build s =
        .next { s with
          out := s.out ++ frameBytes w h bytes, payloadLen := 0, payloadRows := 0, cmdCount := s.cmdCount + 1 }

/-- R177, R174, R175, R88: BUILDA does the same for the shape ceil(W/8) by PAYLOAD_ROWS. -/
def Obligations.BuildaEmitsFrame : Prop :=
  ∀ (s : State) (w h : Nat), CoreInv s → s.col = 0 → w = (s.w.toNat + 7) / 8 → h = s.payloadRows.toNat →
    w * h = s.payloadLen.toNat →
    ∃ bytes : List Byte, bytes.length = w * h ∧ (∀ k, k < w * h → s.pbuf.read k = bytes[k]?) ∧
      exec .builda s =
        .next { s with
          out := s.out ++ frameBytes w h bytes, payloadLen := 0, payloadRows := 0, cmdCount := s.cmdCount + 1 }

/-- R174 in the order of R209: BUILD's faults; each emits nothing and keeps the payload. -/
def Obligations.BuildFaultsInOrder : Prop :=
  ∀ s : State,
    let w := s.frameW.toInt
    let h := s.frameH.toInt
    (s.col ≠ 0 → exec .build s = .next (faulted s 0x40 2 8)) ∧
    (s.col = 0 → w < 0 ∨ w > 65535 → exec .build s = .next (faulted s 0x40 5 0)) ∧
    (s.col = 0 → 0 ≤ w → w ≤ 65535 → h < 0 ∨ h > 65535 → exec .build s = .next (faulted s 0x40 5 1)) ∧
    (s.col = 0 → 0 ≤ w → w ≤ 65535 → 0 ≤ h → h ≤ 65535 → w * h > 4096 →
      exec .build s = .next (faulted s 0x40 4 0)) ∧
    (s.col = 0 → 0 ≤ w → w ≤ 65535 → 0 ≤ h → h ≤ 65535 → w * h ≤ 4096 → w * h ≠ s.payloadLen.toNat →
      exec .build s = .next (faulted s 0x40 3 0))

/-- R177, R174: BUILDA's faults; OUT_OF_RANGE is not among them. -/
def Obligations.BuildaFaultsInOrder : Prop :=
  ∀ s : State,
    let w := (s.w.toNat + 7) / 8
    let h := s.payloadRows.toNat
    (s.col ≠ 0 → exec .builda s = .next (faulted s 0x41 2 8)) ∧
    (s.col = 0 → w * h > 4096 → exec .builda s = .next (faulted s 0x41 4 0)) ∧
    (s.col = 0 → w * h ≤ 4096 → w * h ≠ s.payloadLen.toNat → exec .builda s = .next (faulted s 0x41 3 0)) ∧
    (∀ info, exec .builda s ≠ .next (faulted s 0x41 5 info))

/-- R180: the reference batcher, for size ≥ 1, gives ceil(L/size) groups, each but the last of exactly `size` rows and none
empty, whose concatenation is the rows in order. -/
def Obligations.BatcherGroupsInOrder : Prop :=
  ∀ (rows : List (List Byte)) (size : Nat), 1 ≤ size →
    ∃ groups, batch rows size = some groups ∧ groups.flatten = rows ∧
      groups.length = (rows.length + size - 1) / size ∧
      (∀ g ∈ groups, g ≠ [] ∧ g.length ≤ size) ∧
      ∀ k, k + 1 < groups.length → (groups[k]?.map List.length) = some size

/-! ## Faults (60_exceptions.md) -/

/-- R205, R206, R204: a command that faults changes the fault record and CMD_COUNT only, with a code and info of R204's
table and the word's own opcode. -/
def Obligations.FaultsArePrecise : Prop :=
  ∀ (s t : State) (w : CommandWord) (rest : List HostInput),
    s.input = .command w :: rest → s.fault = false → step s = .next t → t.fault = true →
    ∃ row ∈ faultTable, t = faulted { s with input := rest } (w.extractLsb' 56 8) row.1 row.2

/-- R34, R95: each command executed with FAULT = 0 advances CMD_COUNT by one modulo 2^32, the faulting one too; a discarded
command does not; SRST and reset give 0. -/
def Obligations.CommandCountAdvancesByOne : Prop :=
  State.reset.cmdCount = 0 ∧
  ∀ s t : State, step s = .next t →
    (∀ w rest, s.input = .command w :: rest → w = 0x0100000000000000 → t.cmdCount = 0) ∧
    (∀ w rest, s.input = .command w :: rest → w ≠ 0x0100000000000000 → s.fault = false → s.transportReady = true →
      t.cmdCount = s.cmdCount + 1) ∧
    (∀ w rest, s.input = .command w :: rest → w ≠ 0x0100000000000000 → s.fault = true → t.cmdCount = s.cmdCount) ∧
    (∀ rest, s.input = .hardReset :: rest → t.cmdCount = 0)

/-- R208, R200: the only inputs that leave the fault state are the exact SRST word and the hardware reset, both a full
reset; only the emitted bytes survive, and the next input is taken from reset state. -/
def Obligations.OnlyResetsLeaveFault : Prop :=
  ∀ s t : State, s.fault = true → step s = .next t → t.fault = false →
    ResetFrom s t ∧ t.out = s.out ∧
      ∃ rest, t.input = rest ∧
        (s.input = .command 0x0100000000000000 :: rest ∨ s.input = .hardReset :: rest ∨
          ∃ w n, s.input = .resetDuring w n :: rest)

/-- R36, R65: OUT only grows, in every step, and only a command with opcode 0x40 or 0x41 makes it grow (run to its end, or
cut by a reset). -/
def Obligations.OutputOnlyGrowsByFrames : Prop :=
  ∀ s t : State, step s = .next t →
    (∃ bytes, t.out = s.out ++ bytes) ∧
    (t.out ≠ s.out → ∃ w rest,
      (s.input = .command w :: rest ∨ ∃ n, s.input = .resetDuring w n :: rest) ∧
        (w = 0x4000000000000000 ∨ w = 0x4100000000000000))

/-- R96, R97: while a stream stays open, no step changes W, MODE, ATK_GE or PACK_LE. -/
def Obligations.ConfigurationConstantInStream : Prop :=
  ∀ s t : State, step s = .next t → s.active = true → t.active = true →
    t.w = s.w ∧ t.mode = s.mode ∧ t.atkGe = s.atkGe ∧ t.packLe = s.packLe

/-- R23, R37: no step, reset or not, changes the parameters; the transport's readiness is the host's (log 10). -/
def Obligations.StepKeepsParameters : Prop :=
  ∀ s t : State, step s = .next t → t.params = s.params ∧ t.transportReady = s.transportReady

/-! ## Registers the host reads (10_state.md) -/

/-- R39 to R43: STATUS, ERROR, ERR_CMD, CMD_COUNT and CONFIG, field by field, and their reset values. -/
def Obligations.StatusErrorConfigLayout : Prop :=
  (csrRead State.reset 0x00 = 0 ∧ csrRead State.reset 0x01 = 0 ∧ csrRead State.reset 0x02 = 0 ∧
    csrRead State.reset 0x03 = 0 ∧ csrRead State.reset 0x04 = 0x03000000) ∧
  ∀ s : State,
    ((csrRead s 0x00).getLsbD 0 = s.fault ∧ (csrRead s 0x00).getLsbD 1 = s.active ∧
      (csrRead s 0x00).getLsbD 2 = s.tileValid ∧ (csrRead s 0x00).getLsbD 3 = s.tileLoading ∧
      (csrRead s 0x00).extractLsb' 4 28 = 0) ∧
    ((csrRead s 0x01).extractLsb' 0 8 = s.errCode ∧ (csrRead s 0x01).extractLsb' 8 8 = s.errOpc ∧
      (csrRead s 0x01).extractLsb' 16 8 = s.errInfo ∧ (csrRead s 0x01).extractLsb' 24 8 = 0) ∧
    csrRead s 0x02 = s.errCmd ∧ csrRead s 0x03 = s.cmdCount ∧
    ((csrRead s 0x04).extractLsb' 0 16 = s.w ∧
      (∀ m ∈ [(Mode.bayer, 0), (.blue, 1), (.fs, 2), (.atk, 3), (.pass, 4)], s.mode = m.1 →
        (csrRead s 0x04).extractLsb' 16 3 = m.2) ∧
      (csrRead s 0x04).extractLsb' 19 5 = 0 ∧ (csrRead s 0x04).getLsbD 24 = s.atkGe ∧
      (csrRead s 0x04).getLsbD 25 = s.packLe ∧ (csrRead s 0x04).extractLsb' 26 6 = 0)

/-- R44 to R53: the frame operands, the tile, the position, the packer, the payload, PARAMS and the unmapped indices, and
the reset values. -/
def Obligations.PositionPayloadParamsLayout : Prop :=
  (∀ k ∈ [(0x05 : BitVec 8), 0x06, 0x07, 0x08, 0x09, 0x0A, 0x0B, 0x0C], csrRead State.reset k = 0) ∧
  ∀ s : State,
    csrRead s 0x05 = s.frameW ∧ csrRead s 0x06 = s.frameH ∧
    ((csrRead s 0x07).extractLsb' 0 16 = s.tileSide ∧ (csrRead s 0x07).extractLsb' 16 16 = 0) ∧
    csrRead s 0x08 = s.tileCount ∧
    ((csrRead s 0x09).extractLsb' 0 16 = s.col ∧ (csrRead s 0x09).extractLsb' 16 16 = 0) ∧
    (csrRead s 0x0A).toNat = s.row % 2 ^ 32 ∧
    ((csrRead s 0x0B).extractLsb' 0 8 = s.packAcc ∧ (csrRead s 0x0B).extractLsb' 8 3 = s.packN ∧
      (csrRead s 0x0B).extractLsb' 11 21 = 0) ∧
    ((csrRead s 0x0C).extractLsb' 0 13 = s.payloadLen ∧ (csrRead s 0x0C).extractLsb' 13 3 = 0 ∧
      (csrRead s 0x0C).extractLsb' 16 13 = s.payloadRows ∧ (csrRead s 0x0C).extractLsb' 29 3 = 0) ∧
    (s.params.Legal → ((csrRead s 0x0D).extractLsb' 0 16).toNat = s.params.maxWidth ∧
      ((csrRead s 0x0D).extractLsb' 16 16).toNat = s.params.tileMaxSide) ∧
    (∀ k : BitVec 8, 0x0E ≤ k.toNat → csrRead s k = 0)

/-- R221, R43: the CSR view after a hardware reset of any state. -/
def Obligations.ResetCsrView : Prop :=
  ∀ (s : State) (rest : List HostInput), s.input = .hardReset :: rest →
    ∃ t, step s = .next t ∧ csrRead t 0x04 = 0x03000000 ∧
      (∀ k : BitVec 8, k.toNat ≠ 0x04 → k.toNat ≠ 0x0D → csrRead t k = 0) ∧ csrRead t 0x0D = csrRead s 0x0D

/-! ## Invariants (R57, R162) -/

/-- R57, R162, R58: the state after reset meets the invariant. -/
def Obligations.ResetMeetsInvariant : Prop := CoreInv State.reset

/-- R57, R162: from every state that meets the invariant, every step that answers a next state keeps it. -/
def Obligations.EveryStepKeepsInvariant : Prop :=
  ∀ s t : State, CoreInv s → step s = .next t → CoreInv t

/-- R57, R77: from every state that meets the invariant no step stops with a fault of the model, so no rule reads an
element that nothing has written. -/
def Obligations.NoStepReadsUnwrittenElement : Prop :=
  ∀ s : State, CoreInv s → ∀ f, step s ≠ .fault f

/-- R162: the accumulator bounds, and the error and total ranges they give for the next sample. -/
def Obligations.AccumulatorsStayInRange : Prop :=
  ∀ s : State, CoreInv s → s.active = true →
    (s.mode = .fs →
      (∀ k x v, (s.acc k).read x = some v → x < s.params.maxWidth → v.toInt.natAbs ≤ 192) ∧
      ∀ sample : Byte,
        let total : Int := sample.toNat + accValue s.acc0 s.col.toNat
        (-192 : Int) ≤ total ∧ total ≤ 447 ∧ -12 ≤ fsError total ∧ fsError total ≤ 12) ∧
    (s.mode = .atk →
      (∀ k x v, (s.acc k).read x = some v → x < s.params.maxWidth → v.toInt.natAbs ≤ 144) ∧
      ∀ sample : Byte,
        let total : Int := sample.toNat + accValue s.acc0 s.col.toNat
        (-144 : Int) ≤ total ∧ total ≤ 399 ∧ -24 ≤ atkError s.atkGe total ∧ atkError s.atkGe total ≤ 24)
end

