-- ==== Sys2Proof/Laws/Assembler.lean ====
section
/-! SUPPORT. For each field and list reader of Machine/Assembler.lean one lemma that says exactly what it accepts: the
number written is the value of the field. -/

namespace Sys2Proof.Machine

theorem unsignedField_eq_some_iff {n : Nat} {v : Int} {b : BitVec n} :
    unsignedField n v = some b ↔ (b.toNat : Int) = v := by
  cases v with
  | ofNat k =>
    simp only [unsignedField, Int.ofNat_eq_natCast, Int.ofNat_inj]
    split
    · rename_i h
      rw [Option.some.injEq, ← BitVec.toNat_inj, BitVec.toNat_ofNat, Nat.mod_eq_of_lt h, eq_comm]
    · rename_i h
      have := b.isLt
      constructor
      · intro h; cases h
      · intro e; omega
  | negSucc k => simp only [unsignedField]; constructor <;> intro h <;> [cases h; omega]

theorem signedField_eq_some_iff {v : Int} {b : BitVec 32} : signedField v = some b ↔ b.toInt = v := by
  have lo := BitVec.le_toInt b
  have hi := BitVec.toInt_lt (x := b)
  norm_num at lo hi
  unfold signedField
  split
  · rw [Option.some.injEq, ← BitVec.toInt_inj, BitVec.toInt_ofInt, eq_comm]
    simp only [Int.bmod]
    constructor <;> intro h <;> omega
  · constructor <;> intro h <;> [cases h; omega]

theorem bitField_eq_some_iff {v : Int} {b : Bool} : bitField v = some b ↔ (b.toNat : Int) = v := by
  unfold bitField
  cases b <;> split <;> [skip; split; skip; split] <;> simp_all <;> omega

theorem pixOf_eq_some_iff {last : Bool} {v : Int} {i : Instr} :
    pixOf last v = some i ↔ ∃ b : Byte, (b.toNat : Int) = v ∧ i = .pix b last := by
  simp only [pixOf, Option.map_eq_some_iff, unsignedField_eq_some_iff, eq_comm (a := i)]

theorem rowPix_eq_some_iff {ops : List Int} {is : List Instr} :
    rowPix ops = some is ↔
      ∃ row : List Byte, row.map (fun b => (b.toNat : Int)) = ops ∧ row ≠ [] ∧ is = rowCommands row := by
  induction ops generalizing is with
  | nil =>
    simp only [rowPix, List.map_eq_nil_iff]
    constructor
    · intro h; cases h
    · rintro ⟨row, h, hne, -⟩; exact absurd h hne
  | cons v ops ih =>
    cases ops with
    | nil =>
      simp only [rowPix, Option.map_eq_some_iff, pixOf_eq_some_iff]
      constructor
      · rintro ⟨i, ⟨b, hb, rfl⟩, rfl⟩
        exact ⟨[b], by simp [hb], by simp, rfl⟩
      · rintro ⟨row, hrow, -, rfl⟩
        obtain ⟨b, rest, rfl, hb, hrest⟩ := List.map_eq_cons_iff.mp hrow
        rw [List.map_eq_nil_iff] at hrest
        subst hrest
        exact ⟨_, ⟨b, hb, rfl⟩, rfl⟩
    | cons u ops =>
      simp only [rowPix]
      constructor
      · intro h
        split at h
        · rename_i i js hi hjs
          cases h
          obtain ⟨b, hb, rfl⟩ := pixOf_eq_some_iff.mp hi
          obtain ⟨row, hrow, hne, rfl⟩ := ih.mp hjs
          obtain ⟨c, rest, rfl⟩ := List.exists_cons_of_ne_nil hne
          exact ⟨b :: c :: rest, by rw [List.map_cons, hb, hrow], by simp, rfl⟩
        · cases h
      · rintro ⟨row, hrow, -, rfl⟩
        obtain ⟨b, tail, rfl, hb, htail⟩ := List.map_eq_cons_iff.mp hrow
        obtain ⟨c, rest, rfl, hc, hrest⟩ := List.map_eq_cons_iff.mp htail
        have hjs := ih.mpr ⟨c :: rest, htail, by simp, rfl⟩
        rw [pixOf_eq_some_iff.mpr ⟨b, hb, rfl⟩, hjs]
        rfl

theorem tileDatas_eq_some_iff {ops : List Int} {is : List Instr} :
    tileDatas ops = some is ↔
      ∃ data : List Byte, data.map (fun b => (b.toNat : Int)) = ops ∧ is = data.map Instr.tldata := by
  induction ops generalizing is with
  | nil =>
    simp only [tileDatas, List.map_eq_nil_iff]
    constructor
    · intro h; cases h; exact ⟨[], rfl, rfl⟩
    · rintro ⟨data, rfl, rfl⟩; rfl
  | cons v ops ih =>
    simp only [tileDatas]
    constructor
    · intro h
      split at h
      · rename_i d js hd hjs
        cases h
        obtain ⟨data, hdata, rfl⟩ := ih.mp hjs
        exact ⟨d :: data, by rw [List.map_cons, unsignedField_eq_some_iff.mp hd, hdata], rfl⟩
      · cases h
    · rintro ⟨data, hdata, rfl⟩
      obtain ⟨d, rest, rfl, hd, hrest⟩ := List.map_eq_cons_iff.mp hdata
      rw [unsignedField_eq_some_iff.mpr hd, ih.mpr ⟨rest, hrest, rfl⟩]
      rfl

end Sys2Proof.Machine
end

