-- ==== Sys2Proof/Laws/State.lean ====
section
/-! SUPPORT. One lemma per field of State per update (true by rfl), so that no proof unfolds a record update. -/

namespace Sys2Proof.Machine

@[simp] theorem openStream_params (s : State) : s.openStream.params = s.params := rfl
@[simp] theorem openStream_w (s : State) : s.openStream.w = s.w := rfl
@[simp] theorem openStream_mode (s : State) : s.openStream.mode = s.mode := rfl
@[simp] theorem openStream_atkGe (s : State) : s.openStream.atkGe = s.atkGe := rfl
@[simp] theorem openStream_packLe (s : State) : s.openStream.packLe = s.packLe := rfl
@[simp] theorem openStream_frameW (s : State) : s.openStream.frameW = s.frameW := rfl
@[simp] theorem openStream_frameH (s : State) : s.openStream.frameH = s.frameH := rfl
@[simp] theorem openStream_tileValid (s : State) : s.openStream.tileValid = s.tileValid := rfl
@[simp] theorem openStream_tileLoading (s : State) : s.openStream.tileLoading = s.tileLoading := rfl
@[simp] theorem openStream_tileSide (s : State) : s.openStream.tileSide = s.tileSide := rfl
@[simp] theorem openStream_tileCount (s : State) : s.openStream.tileCount = s.tileCount := rfl
@[simp] theorem openStream_tlut (s : State) : s.openStream.tlut = s.tlut := rfl
@[simp] theorem openStream_active (s : State) : s.openStream.active = true := rfl
@[simp] theorem openStream_col (s : State) : s.openStream.col = s.col := rfl
@[simp] theorem openStream_row (s : State) : s.openStream.row = s.row := rfl
@[simp] theorem openStream_acc0 (s : State) : s.openStream.acc0 = s.acc0 := rfl
@[simp] theorem openStream_acc1 (s : State) : s.openStream.acc1 = s.acc1 := rfl
@[simp] theorem openStream_acc2 (s : State) : s.openStream.acc2 = s.acc2 := rfl
@[simp] theorem openStream_packAcc (s : State) : s.openStream.packAcc = s.packAcc := rfl
@[simp] theorem openStream_packN (s : State) : s.openStream.packN = s.packN := rfl
@[simp] theorem openStream_pbuf (s : State) : s.openStream.pbuf = s.pbuf := rfl
@[simp] theorem openStream_payloadLen (s : State) : s.openStream.payloadLen = s.payloadLen := rfl
@[simp] theorem openStream_payloadRows (s : State) : s.openStream.payloadRows = s.payloadRows := rfl
@[simp] theorem openStream_cmdCount (s : State) : s.openStream.cmdCount = s.cmdCount := rfl
@[simp] theorem openStream_fault (s : State) : s.openStream.fault = s.fault := rfl
@[simp] theorem openStream_errCode (s : State) : s.openStream.errCode = s.errCode := rfl
@[simp] theorem openStream_errOpc (s : State) : s.openStream.errOpc = s.errOpc := rfl
@[simp] theorem openStream_errInfo (s : State) : s.openStream.errInfo = s.errInfo := rfl
@[simp] theorem openStream_errCmd (s : State) : s.openStream.errCmd = s.errCmd := rfl
@[simp] theorem openStream_out (s : State) : s.openStream.out = s.out := rfl
@[simp] theorem openStream_input (s : State) : s.openStream.input = s.input := rfl
@[simp] theorem openStream_transportReady (s : State) : s.openStream.transportReady = s.transportReady := rfl

@[simp] theorem closeStream_params (s : State) : s.closeStream.params = s.params := rfl
@[simp] theorem closeStream_w (s : State) : s.closeStream.w = s.w := rfl
@[simp] theorem closeStream_mode (s : State) : s.closeStream.mode = s.mode := rfl
@[simp] theorem closeStream_atkGe (s : State) : s.closeStream.atkGe = s.atkGe := rfl
@[simp] theorem closeStream_packLe (s : State) : s.closeStream.packLe = s.packLe := rfl
@[simp] theorem closeStream_frameW (s : State) : s.closeStream.frameW = s.frameW := rfl
@[simp] theorem closeStream_frameH (s : State) : s.closeStream.frameH = s.frameH := rfl
@[simp] theorem closeStream_tileValid (s : State) : s.closeStream.tileValid = s.tileValid := rfl
@[simp] theorem closeStream_tileLoading (s : State) : s.closeStream.tileLoading = s.tileLoading := rfl
@[simp] theorem closeStream_tileSide (s : State) : s.closeStream.tileSide = s.tileSide := rfl
@[simp] theorem closeStream_tileCount (s : State) : s.closeStream.tileCount = s.tileCount := rfl
@[simp] theorem closeStream_tlut (s : State) : s.closeStream.tlut = s.tlut := rfl
@[simp] theorem closeStream_active (s : State) : s.closeStream.active = false := rfl
@[simp] theorem closeStream_col (s : State) : s.closeStream.col = s.col := rfl
@[simp] theorem closeStream_row (s : State) : s.closeStream.row = s.row := rfl
@[simp] theorem closeStream_acc0 (s : State) : s.closeStream.acc0 = s.acc0 := rfl
@[simp] theorem closeStream_acc1 (s : State) : s.closeStream.acc1 = s.acc1 := rfl
@[simp] theorem closeStream_acc2 (s : State) : s.closeStream.acc2 = s.acc2 := rfl
@[simp] theorem closeStream_packAcc (s : State) : s.closeStream.packAcc = s.packAcc := rfl
@[simp] theorem closeStream_packN (s : State) : s.closeStream.packN = s.packN := rfl
@[simp] theorem closeStream_pbuf (s : State) : s.closeStream.pbuf = s.pbuf := rfl
@[simp] theorem closeStream_payloadLen (s : State) : s.closeStream.payloadLen = s.payloadLen := rfl
@[simp] theorem closeStream_payloadRows (s : State) : s.closeStream.payloadRows = s.payloadRows := rfl
@[simp] theorem closeStream_cmdCount (s : State) : s.closeStream.cmdCount = s.cmdCount := rfl
@[simp] theorem closeStream_fault (s : State) : s.closeStream.fault = s.fault := rfl
@[simp] theorem closeStream_errCode (s : State) : s.closeStream.errCode = s.errCode := rfl
@[simp] theorem closeStream_errOpc (s : State) : s.closeStream.errOpc = s.errOpc := rfl
@[simp] theorem closeStream_errInfo (s : State) : s.closeStream.errInfo = s.errInfo := rfl
@[simp] theorem closeStream_errCmd (s : State) : s.closeStream.errCmd = s.errCmd := rfl
@[simp] theorem closeStream_out (s : State) : s.closeStream.out = s.out := rfl
@[simp] theorem closeStream_input (s : State) : s.closeStream.input = s.input := rfl
@[simp] theorem closeStream_transportReady (s : State) : s.closeStream.transportReady = s.transportReady := rfl

@[simp] theorem openLoad_params (s : State) : s.openLoad.params = s.params := rfl
@[simp] theorem openLoad_w (s : State) : s.openLoad.w = s.w := rfl
@[simp] theorem openLoad_mode (s : State) : s.openLoad.mode = s.mode := rfl
@[simp] theorem openLoad_atkGe (s : State) : s.openLoad.atkGe = s.atkGe := rfl
@[simp] theorem openLoad_packLe (s : State) : s.openLoad.packLe = s.packLe := rfl
@[simp] theorem openLoad_frameW (s : State) : s.openLoad.frameW = s.frameW := rfl
@[simp] theorem openLoad_frameH (s : State) : s.openLoad.frameH = s.frameH := rfl
@[simp] theorem openLoad_tileValid (s : State) : s.openLoad.tileValid = s.tileValid := rfl
@[simp] theorem openLoad_tileLoading (s : State) : s.openLoad.tileLoading = true := rfl
@[simp] theorem openLoad_tileSide (s : State) : s.openLoad.tileSide = s.tileSide := rfl
@[simp] theorem openLoad_tileCount (s : State) : s.openLoad.tileCount = s.tileCount := rfl
@[simp] theorem openLoad_tlut (s : State) : s.openLoad.tlut = s.tlut := rfl
@[simp] theorem openLoad_active (s : State) : s.openLoad.active = s.active := rfl
@[simp] theorem openLoad_col (s : State) : s.openLoad.col = s.col := rfl
@[simp] theorem openLoad_row (s : State) : s.openLoad.row = s.row := rfl
@[simp] theorem openLoad_acc0 (s : State) : s.openLoad.acc0 = s.acc0 := rfl
@[simp] theorem openLoad_acc1 (s : State) : s.openLoad.acc1 = s.acc1 := rfl
@[simp] theorem openLoad_acc2 (s : State) : s.openLoad.acc2 = s.acc2 := rfl
@[simp] theorem openLoad_packAcc (s : State) : s.openLoad.packAcc = s.packAcc := rfl
@[simp] theorem openLoad_packN (s : State) : s.openLoad.packN = s.packN := rfl
@[simp] theorem openLoad_pbuf (s : State) : s.openLoad.pbuf = s.pbuf := rfl
@[simp] theorem openLoad_payloadLen (s : State) : s.openLoad.payloadLen = s.payloadLen := rfl
@[simp] theorem openLoad_payloadRows (s : State) : s.openLoad.payloadRows = s.payloadRows := rfl
@[simp] theorem openLoad_cmdCount (s : State) : s.openLoad.cmdCount = s.cmdCount := rfl
@[simp] theorem openLoad_fault (s : State) : s.openLoad.fault = s.fault := rfl
@[simp] theorem openLoad_errCode (s : State) : s.openLoad.errCode = s.errCode := rfl
@[simp] theorem openLoad_errOpc (s : State) : s.openLoad.errOpc = s.errOpc := rfl
@[simp] theorem openLoad_errInfo (s : State) : s.openLoad.errInfo = s.errInfo := rfl
@[simp] theorem openLoad_errCmd (s : State) : s.openLoad.errCmd = s.errCmd := rfl
@[simp] theorem openLoad_out (s : State) : s.openLoad.out = s.out := rfl
@[simp] theorem openLoad_input (s : State) : s.openLoad.input = s.input := rfl
@[simp] theorem openLoad_transportReady (s : State) : s.openLoad.transportReady = s.transportReady := rfl

@[simp] theorem closeLoad_params (s : State) : s.closeLoad.params = s.params := rfl
@[simp] theorem closeLoad_w (s : State) : s.closeLoad.w = s.w := rfl
@[simp] theorem closeLoad_mode (s : State) : s.closeLoad.mode = s.mode := rfl
@[simp] theorem closeLoad_atkGe (s : State) : s.closeLoad.atkGe = s.atkGe := rfl
@[simp] theorem closeLoad_packLe (s : State) : s.closeLoad.packLe = s.packLe := rfl
@[simp] theorem closeLoad_frameW (s : State) : s.closeLoad.frameW = s.frameW := rfl
@[simp] theorem closeLoad_frameH (s : State) : s.closeLoad.frameH = s.frameH := rfl
@[simp] theorem closeLoad_tileValid (s : State) : s.closeLoad.tileValid = true := rfl
@[simp] theorem closeLoad_tileLoading (s : State) : s.closeLoad.tileLoading = false := rfl
@[simp] theorem closeLoad_tileSide (s : State) : s.closeLoad.tileSide = s.tileSide := rfl
@[simp] theorem closeLoad_tileCount (s : State) : s.closeLoad.tileCount = s.tileCount := rfl
@[simp] theorem closeLoad_tlut (s : State) : s.closeLoad.tlut = s.tlut := rfl
@[simp] theorem closeLoad_active (s : State) : s.closeLoad.active = s.active := rfl
@[simp] theorem closeLoad_col (s : State) : s.closeLoad.col = s.col := rfl
@[simp] theorem closeLoad_row (s : State) : s.closeLoad.row = s.row := rfl
@[simp] theorem closeLoad_acc0 (s : State) : s.closeLoad.acc0 = s.acc0 := rfl
@[simp] theorem closeLoad_acc1 (s : State) : s.closeLoad.acc1 = s.acc1 := rfl
@[simp] theorem closeLoad_acc2 (s : State) : s.closeLoad.acc2 = s.acc2 := rfl
@[simp] theorem closeLoad_packAcc (s : State) : s.closeLoad.packAcc = s.packAcc := rfl
@[simp] theorem closeLoad_packN (s : State) : s.closeLoad.packN = s.packN := rfl
@[simp] theorem closeLoad_pbuf (s : State) : s.closeLoad.pbuf = s.pbuf := rfl
@[simp] theorem closeLoad_payloadLen (s : State) : s.closeLoad.payloadLen = s.payloadLen := rfl
@[simp] theorem closeLoad_payloadRows (s : State) : s.closeLoad.payloadRows = s.payloadRows := rfl
@[simp] theorem closeLoad_cmdCount (s : State) : s.closeLoad.cmdCount = s.cmdCount := rfl
@[simp] theorem closeLoad_fault (s : State) : s.closeLoad.fault = s.fault := rfl
@[simp] theorem closeLoad_errCode (s : State) : s.closeLoad.errCode = s.errCode := rfl
@[simp] theorem closeLoad_errOpc (s : State) : s.closeLoad.errOpc = s.errOpc := rfl
@[simp] theorem closeLoad_errInfo (s : State) : s.closeLoad.errInfo = s.errInfo := rfl
@[simp] theorem closeLoad_errCmd (s : State) : s.closeLoad.errCmd = s.errCmd := rfl
@[simp] theorem closeLoad_out (s : State) : s.closeLoad.out = s.out := rfl
@[simp] theorem closeLoad_input (s : State) : s.closeLoad.input = s.input := rfl
@[simp] theorem closeLoad_transportReady (s : State) : s.closeLoad.transportReady = s.transportReady := rfl

@[simp] theorem takeFault_params (opc info : BitVec 8) (e : FaultCode) (s : State) : (takeFault opc e info s).params = s.params := rfl
@[simp] theorem takeFault_w (opc info : BitVec 8) (e : FaultCode) (s : State) : (takeFault opc e info s).w = s.w := rfl
@[simp] theorem takeFault_mode (opc info : BitVec 8) (e : FaultCode) (s : State) : (takeFault opc e info s).mode = s.mode := rfl
@[simp] theorem takeFault_atkGe (opc info : BitVec 8) (e : FaultCode) (s : State) : (takeFault opc e info s).atkGe = s.atkGe := rfl
@[simp] theorem takeFault_packLe (opc info : BitVec 8) (e : FaultCode) (s : State) : (takeFault opc e info s).packLe = s.packLe := rfl
@[simp] theorem takeFault_frameW (opc info : BitVec 8) (e : FaultCode) (s : State) : (takeFault opc e info s).frameW = s.frameW := rfl
@[simp] theorem takeFault_frameH (opc info : BitVec 8) (e : FaultCode) (s : State) : (takeFault opc e info s).frameH = s.frameH := rfl
@[simp] theorem takeFault_tileValid (opc info : BitVec 8) (e : FaultCode) (s : State) : (takeFault opc e info s).tileValid = s.tileValid := rfl
@[simp] theorem takeFault_tileLoading (opc info : BitVec 8) (e : FaultCode) (s : State) : (takeFault opc e info s).tileLoading = s.tileLoading := rfl
@[simp] theorem takeFault_tileSide (opc info : BitVec 8) (e : FaultCode) (s : State) : (takeFault opc e info s).tileSide = s.tileSide := rfl
@[simp] theorem takeFault_tileCount (opc info : BitVec 8) (e : FaultCode) (s : State) : (takeFault opc e info s).tileCount = s.tileCount := rfl
@[simp] theorem takeFault_tlut (opc info : BitVec 8) (e : FaultCode) (s : State) : (takeFault opc e info s).tlut = s.tlut := rfl
@[simp] theorem takeFault_active (opc info : BitVec 8) (e : FaultCode) (s : State) : (takeFault opc e info s).active = s.active := rfl
@[simp] theorem takeFault_col (opc info : BitVec 8) (e : FaultCode) (s : State) : (takeFault opc e info s).col = s.col := rfl
@[simp] theorem takeFault_row (opc info : BitVec 8) (e : FaultCode) (s : State) : (takeFault opc e info s).row = s.row := rfl
@[simp] theorem takeFault_acc0 (opc info : BitVec 8) (e : FaultCode) (s : State) : (takeFault opc e info s).acc0 = s.acc0 := rfl
@[simp] theorem takeFault_acc1 (opc info : BitVec 8) (e : FaultCode) (s : State) : (takeFault opc e info s).acc1 = s.acc1 := rfl
@[simp] theorem takeFault_acc2 (opc info : BitVec 8) (e : FaultCode) (s : State) : (takeFault opc e info s).acc2 = s.acc2 := rfl
@[simp] theorem takeFault_packAcc (opc info : BitVec 8) (e : FaultCode) (s : State) : (takeFault opc e info s).packAcc = s.packAcc := rfl
@[simp] theorem takeFault_packN (opc info : BitVec 8) (e : FaultCode) (s : State) : (takeFault opc e info s).packN = s.packN := rfl
@[simp] theorem takeFault_pbuf (opc info : BitVec 8) (e : FaultCode) (s : State) : (takeFault opc e info s).pbuf = s.pbuf := rfl
@[simp] theorem takeFault_payloadLen (opc info : BitVec 8) (e : FaultCode) (s : State) : (takeFault opc e info s).payloadLen = s.payloadLen := rfl
@[simp] theorem takeFault_payloadRows (opc info : BitVec 8) (e : FaultCode) (s : State) : (takeFault opc e info s).payloadRows = s.payloadRows := rfl
@[simp] theorem takeFault_cmdCount (opc info : BitVec 8) (e : FaultCode) (s : State) : (takeFault opc e info s).cmdCount = s.cmdCount + 1 := rfl
@[simp] theorem takeFault_fault (opc info : BitVec 8) (e : FaultCode) (s : State) : (takeFault opc e info s).fault = true := rfl
@[simp] theorem takeFault_errCode (opc info : BitVec 8) (e : FaultCode) (s : State) : (takeFault opc e info s).errCode = e.code := rfl
@[simp] theorem takeFault_errOpc (opc info : BitVec 8) (e : FaultCode) (s : State) : (takeFault opc e info s).errOpc = opc := rfl
@[simp] theorem takeFault_errInfo (opc info : BitVec 8) (e : FaultCode) (s : State) : (takeFault opc e info s).errInfo = info := rfl
@[simp] theorem takeFault_errCmd (opc info : BitVec 8) (e : FaultCode) (s : State) : (takeFault opc e info s).errCmd = s.cmdCount := rfl
@[simp] theorem takeFault_out (opc info : BitVec 8) (e : FaultCode) (s : State) : (takeFault opc e info s).out = s.out := rfl
@[simp] theorem takeFault_input (opc info : BitVec 8) (e : FaultCode) (s : State) : (takeFault opc e info s).input = s.input := rfl
@[simp] theorem takeFault_transportReady (opc info : BitVec 8) (e : FaultCode) (s : State) : (takeFault opc e info s).transportReady = s.transportReady := rfl

@[simp] theorem emit_params (bytes : List Byte) (s : State) : (emit bytes s).params = s.params := rfl
@[simp] theorem emit_w (bytes : List Byte) (s : State) : (emit bytes s).w = s.w := rfl
@[simp] theorem emit_mode (bytes : List Byte) (s : State) : (emit bytes s).mode = s.mode := rfl
@[simp] theorem emit_atkGe (bytes : List Byte) (s : State) : (emit bytes s).atkGe = s.atkGe := rfl
@[simp] theorem emit_packLe (bytes : List Byte) (s : State) : (emit bytes s).packLe = s.packLe := rfl
@[simp] theorem emit_frameW (bytes : List Byte) (s : State) : (emit bytes s).frameW = s.frameW := rfl
@[simp] theorem emit_frameH (bytes : List Byte) (s : State) : (emit bytes s).frameH = s.frameH := rfl
@[simp] theorem emit_tileValid (bytes : List Byte) (s : State) : (emit bytes s).tileValid = s.tileValid := rfl
@[simp] theorem emit_tileLoading (bytes : List Byte) (s : State) : (emit bytes s).tileLoading = s.tileLoading := rfl
@[simp] theorem emit_tileSide (bytes : List Byte) (s : State) : (emit bytes s).tileSide = s.tileSide := rfl
@[simp] theorem emit_tileCount (bytes : List Byte) (s : State) : (emit bytes s).tileCount = s.tileCount := rfl
@[simp] theorem emit_tlut (bytes : List Byte) (s : State) : (emit bytes s).tlut = s.tlut := rfl
@[simp] theorem emit_active (bytes : List Byte) (s : State) : (emit bytes s).active = s.active := rfl
@[simp] theorem emit_col (bytes : List Byte) (s : State) : (emit bytes s).col = s.col := rfl
@[simp] theorem emit_row (bytes : List Byte) (s : State) : (emit bytes s).row = s.row := rfl
@[simp] theorem emit_acc0 (bytes : List Byte) (s : State) : (emit bytes s).acc0 = s.acc0 := rfl
@[simp] theorem emit_acc1 (bytes : List Byte) (s : State) : (emit bytes s).acc1 = s.acc1 := rfl
@[simp] theorem emit_acc2 (bytes : List Byte) (s : State) : (emit bytes s).acc2 = s.acc2 := rfl
@[simp] theorem emit_packAcc (bytes : List Byte) (s : State) : (emit bytes s).packAcc = s.packAcc := rfl
@[simp] theorem emit_packN (bytes : List Byte) (s : State) : (emit bytes s).packN = s.packN := rfl
@[simp] theorem emit_pbuf (bytes : List Byte) (s : State) : (emit bytes s).pbuf = s.pbuf := rfl
@[simp] theorem emit_payloadLen (bytes : List Byte) (s : State) : (emit bytes s).payloadLen = s.payloadLen := rfl
@[simp] theorem emit_payloadRows (bytes : List Byte) (s : State) : (emit bytes s).payloadRows = s.payloadRows := rfl
@[simp] theorem emit_cmdCount (bytes : List Byte) (s : State) : (emit bytes s).cmdCount = s.cmdCount := rfl
@[simp] theorem emit_fault (bytes : List Byte) (s : State) : (emit bytes s).fault = s.fault := rfl
@[simp] theorem emit_errCode (bytes : List Byte) (s : State) : (emit bytes s).errCode = s.errCode := rfl
@[simp] theorem emit_errOpc (bytes : List Byte) (s : State) : (emit bytes s).errOpc = s.errOpc := rfl
@[simp] theorem emit_errInfo (bytes : List Byte) (s : State) : (emit bytes s).errInfo = s.errInfo := rfl
@[simp] theorem emit_errCmd (bytes : List Byte) (s : State) : (emit bytes s).errCmd = s.errCmd := rfl
@[simp] theorem emit_out (bytes : List Byte) (s : State) : (emit bytes s).out = s.out ++ bytes := rfl
@[simp] theorem emit_input (bytes : List Byte) (s : State) : (emit bytes s).input = s.input := rfl
@[simp] theorem emit_transportReady (bytes : List Byte) (s : State) : (emit bytes s).transportReady = s.transportReady := rfl

@[simp] theorem resetState_params (s : State) : (resetState s).params = s.params := rfl
@[simp] theorem resetState_w (s : State) : (resetState s).w = 0 := rfl
@[simp] theorem resetState_mode (s : State) : (resetState s).mode = .bayer := rfl
@[simp] theorem resetState_atkGe (s : State) : (resetState s).atkGe = true := rfl
@[simp] theorem resetState_packLe (s : State) : (resetState s).packLe = true := rfl
@[simp] theorem resetState_frameW (s : State) : (resetState s).frameW = 0 := rfl
@[simp] theorem resetState_frameH (s : State) : (resetState s).frameH = 0 := rfl
@[simp] theorem resetState_tileValid (s : State) : (resetState s).tileValid = false := rfl
@[simp] theorem resetState_tileLoading (s : State) : (resetState s).tileLoading = false := rfl
@[simp] theorem resetState_tileSide (s : State) : (resetState s).tileSide = 0 := rfl
@[simp] theorem resetState_tileCount (s : State) : (resetState s).tileCount = 0 := rfl
@[simp] theorem resetState_tlut (s : State) : (resetState s).tlut = [] := rfl
@[simp] theorem resetState_active (s : State) : (resetState s).active = false := rfl
@[simp] theorem resetState_col (s : State) : (resetState s).col = 0 := rfl
@[simp] theorem resetState_row (s : State) : (resetState s).row = 0 := rfl
@[simp] theorem resetState_acc0 (s : State) : (resetState s).acc0 = [] := rfl
@[simp] theorem resetState_acc1 (s : State) : (resetState s).acc1 = [] := rfl
@[simp] theorem resetState_acc2 (s : State) : (resetState s).acc2 = [] := rfl
@[simp] theorem resetState_packAcc (s : State) : (resetState s).packAcc = 0 := rfl
@[simp] theorem resetState_packN (s : State) : (resetState s).packN = 0 := rfl
@[simp] theorem resetState_pbuf (s : State) : (resetState s).pbuf = [] := rfl
@[simp] theorem resetState_payloadLen (s : State) : (resetState s).payloadLen = 0 := rfl
@[simp] theorem resetState_payloadRows (s : State) : (resetState s).payloadRows = 0 := rfl
@[simp] theorem resetState_cmdCount (s : State) : (resetState s).cmdCount = 0 := rfl
@[simp] theorem resetState_fault (s : State) : (resetState s).fault = false := rfl
@[simp] theorem resetState_errCode (s : State) : (resetState s).errCode = 0 := rfl
@[simp] theorem resetState_errOpc (s : State) : (resetState s).errOpc = 0 := rfl
@[simp] theorem resetState_errInfo (s : State) : (resetState s).errInfo = 0 := rfl
@[simp] theorem resetState_errCmd (s : State) : (resetState s).errCmd = 0 := rfl
@[simp] theorem resetState_out (s : State) : (resetState s).out = s.out := rfl
@[simp] theorem resetState_input (s : State) : (resetState s).input = s.input := rfl
@[simp] theorem resetState_transportReady (s : State) : (resetState s).transportReady = s.transportReady := rfl

@[simp] theorem rotateFs_params (s : State) : (rotateFs s).params = s.params := rfl
@[simp] theorem rotateFs_w (s : State) : (rotateFs s).w = s.w := rfl
@[simp] theorem rotateFs_mode (s : State) : (rotateFs s).mode = s.mode := rfl
@[simp] theorem rotateFs_atkGe (s : State) : (rotateFs s).atkGe = s.atkGe := rfl
@[simp] theorem rotateFs_packLe (s : State) : (rotateFs s).packLe = s.packLe := rfl
@[simp] theorem rotateFs_frameW (s : State) : (rotateFs s).frameW = s.frameW := rfl
@[simp] theorem rotateFs_frameH (s : State) : (rotateFs s).frameH = s.frameH := rfl
@[simp] theorem rotateFs_tileValid (s : State) : (rotateFs s).tileValid = s.tileValid := rfl
@[simp] theorem rotateFs_tileLoading (s : State) : (rotateFs s).tileLoading = s.tileLoading := rfl
@[simp] theorem rotateFs_tileSide (s : State) : (rotateFs s).tileSide = s.tileSide := rfl
@[simp] theorem rotateFs_tileCount (s : State) : (rotateFs s).tileCount = s.tileCount := rfl
@[simp] theorem rotateFs_tlut (s : State) : (rotateFs s).tlut = s.tlut := rfl
@[simp] theorem rotateFs_active (s : State) : (rotateFs s).active = s.active := rfl
@[simp] theorem rotateFs_col (s : State) : (rotateFs s).col = s.col := rfl
@[simp] theorem rotateFs_row (s : State) : (rotateFs s).row = s.row := rfl
@[simp] theorem rotateFs_acc0 (s : State) : (rotateFs s).acc0 = s.acc1 := rfl
@[simp] theorem rotateFs_acc1 (s : State) : (rotateFs s).acc1 = zeroAcc s.params := rfl
@[simp] theorem rotateFs_acc2 (s : State) : (rotateFs s).acc2 = s.acc2 := rfl
@[simp] theorem rotateFs_packAcc (s : State) : (rotateFs s).packAcc = s.packAcc := rfl
@[simp] theorem rotateFs_packN (s : State) : (rotateFs s).packN = s.packN := rfl
@[simp] theorem rotateFs_pbuf (s : State) : (rotateFs s).pbuf = s.pbuf := rfl
@[simp] theorem rotateFs_payloadLen (s : State) : (rotateFs s).payloadLen = s.payloadLen := rfl
@[simp] theorem rotateFs_payloadRows (s : State) : (rotateFs s).payloadRows = s.payloadRows := rfl
@[simp] theorem rotateFs_cmdCount (s : State) : (rotateFs s).cmdCount = s.cmdCount := rfl
@[simp] theorem rotateFs_fault (s : State) : (rotateFs s).fault = s.fault := rfl
@[simp] theorem rotateFs_errCode (s : State) : (rotateFs s).errCode = s.errCode := rfl
@[simp] theorem rotateFs_errOpc (s : State) : (rotateFs s).errOpc = s.errOpc := rfl
@[simp] theorem rotateFs_errInfo (s : State) : (rotateFs s).errInfo = s.errInfo := rfl
@[simp] theorem rotateFs_errCmd (s : State) : (rotateFs s).errCmd = s.errCmd := rfl
@[simp] theorem rotateFs_out (s : State) : (rotateFs s).out = s.out := rfl
@[simp] theorem rotateFs_input (s : State) : (rotateFs s).input = s.input := rfl
@[simp] theorem rotateFs_transportReady (s : State) : (rotateFs s).transportReady = s.transportReady := rfl

@[simp] theorem rotateAtk_params (s : State) : (rotateAtk s).params = s.params := rfl
@[simp] theorem rotateAtk_w (s : State) : (rotateAtk s).w = s.w := rfl
@[simp] theorem rotateAtk_mode (s : State) : (rotateAtk s).mode = s.mode := rfl
@[simp] theorem rotateAtk_atkGe (s : State) : (rotateAtk s).atkGe = s.atkGe := rfl
@[simp] theorem rotateAtk_packLe (s : State) : (rotateAtk s).packLe = s.packLe := rfl
@[simp] theorem rotateAtk_frameW (s : State) : (rotateAtk s).frameW = s.frameW := rfl
@[simp] theorem rotateAtk_frameH (s : State) : (rotateAtk s).frameH = s.frameH := rfl
@[simp] theorem rotateAtk_tileValid (s : State) : (rotateAtk s).tileValid = s.tileValid := rfl
@[simp] theorem rotateAtk_tileLoading (s : State) : (rotateAtk s).tileLoading = s.tileLoading := rfl
@[simp] theorem rotateAtk_tileSide (s : State) : (rotateAtk s).tileSide = s.tileSide := rfl
@[simp] theorem rotateAtk_tileCount (s : State) : (rotateAtk s).tileCount = s.tileCount := rfl
@[simp] theorem rotateAtk_tlut (s : State) : (rotateAtk s).tlut = s.tlut := rfl
@[simp] theorem rotateAtk_active (s : State) : (rotateAtk s).active = s.active := rfl
@[simp] theorem rotateAtk_col (s : State) : (rotateAtk s).col = s.col := rfl
@[simp] theorem rotateAtk_row (s : State) : (rotateAtk s).row = s.row := rfl
@[simp] theorem rotateAtk_acc0 (s : State) : (rotateAtk s).acc0 = s.acc1 := rfl
@[simp] theorem rotateAtk_acc1 (s : State) : (rotateAtk s).acc1 = s.acc2 := rfl
@[simp] theorem rotateAtk_acc2 (s : State) : (rotateAtk s).acc2 = zeroAcc s.params := rfl
@[simp] theorem rotateAtk_packAcc (s : State) : (rotateAtk s).packAcc = s.packAcc := rfl
@[simp] theorem rotateAtk_packN (s : State) : (rotateAtk s).packN = s.packN := rfl
@[simp] theorem rotateAtk_pbuf (s : State) : (rotateAtk s).pbuf = s.pbuf := rfl
@[simp] theorem rotateAtk_payloadLen (s : State) : (rotateAtk s).payloadLen = s.payloadLen := rfl
@[simp] theorem rotateAtk_payloadRows (s : State) : (rotateAtk s).payloadRows = s.payloadRows := rfl
@[simp] theorem rotateAtk_cmdCount (s : State) : (rotateAtk s).cmdCount = s.cmdCount := rfl
@[simp] theorem rotateAtk_fault (s : State) : (rotateAtk s).fault = s.fault := rfl
@[simp] theorem rotateAtk_errCode (s : State) : (rotateAtk s).errCode = s.errCode := rfl
@[simp] theorem rotateAtk_errOpc (s : State) : (rotateAtk s).errOpc = s.errOpc := rfl
@[simp] theorem rotateAtk_errInfo (s : State) : (rotateAtk s).errInfo = s.errInfo := rfl
@[simp] theorem rotateAtk_errCmd (s : State) : (rotateAtk s).errCmd = s.errCmd := rfl
@[simp] theorem rotateAtk_out (s : State) : (rotateAtk s).out = s.out := rfl
@[simp] theorem rotateAtk_input (s : State) : (rotateAtk s).input = s.input := rfl
@[simp] theorem rotateAtk_transportReady (s : State) : (rotateAtk s).transportReady = s.transportReady := rfl

@[simp] theorem setAcc_params (m : Memory AccWord) (k : AccName) (s : State) : (s.setAcc m k).params = s.params := by cases k <;> rfl
@[simp] theorem setAcc_w (m : Memory AccWord) (k : AccName) (s : State) : (s.setAcc m k).w = s.w := by cases k <;> rfl
@[simp] theorem setAcc_mode (m : Memory AccWord) (k : AccName) (s : State) : (s.setAcc m k).mode = s.mode := by cases k <;> rfl
@[simp] theorem setAcc_atkGe (m : Memory AccWord) (k : AccName) (s : State) : (s.setAcc m k).atkGe = s.atkGe := by cases k <;> rfl
@[simp] theorem setAcc_packLe (m : Memory AccWord) (k : AccName) (s : State) : (s.setAcc m k).packLe = s.packLe := by cases k <;> rfl
@[simp] theorem setAcc_frameW (m : Memory AccWord) (k : AccName) (s : State) : (s.setAcc m k).frameW = s.frameW := by cases k <;> rfl
@[simp] theorem setAcc_frameH (m : Memory AccWord) (k : AccName) (s : State) : (s.setAcc m k).frameH = s.frameH := by cases k <;> rfl
@[simp] theorem setAcc_tileValid (m : Memory AccWord) (k : AccName) (s : State) : (s.setAcc m k).tileValid = s.tileValid := by cases k <;> rfl
@[simp] theorem setAcc_tileLoading (m : Memory AccWord) (k : AccName) (s : State) : (s.setAcc m k).tileLoading = s.tileLoading := by cases k <;> rfl
@[simp] theorem setAcc_tileSide (m : Memory AccWord) (k : AccName) (s : State) : (s.setAcc m k).tileSide = s.tileSide := by cases k <;> rfl
@[simp] theorem setAcc_tileCount (m : Memory AccWord) (k : AccName) (s : State) : (s.setAcc m k).tileCount = s.tileCount := by cases k <;> rfl
@[simp] theorem setAcc_tlut (m : Memory AccWord) (k : AccName) (s : State) : (s.setAcc m k).tlut = s.tlut := by cases k <;> rfl
@[simp] theorem setAcc_active (m : Memory AccWord) (k : AccName) (s : State) : (s.setAcc m k).active = s.active := by cases k <;> rfl
@[simp] theorem setAcc_col (m : Memory AccWord) (k : AccName) (s : State) : (s.setAcc m k).col = s.col := by cases k <;> rfl
@[simp] theorem setAcc_row (m : Memory AccWord) (k : AccName) (s : State) : (s.setAcc m k).row = s.row := by cases k <;> rfl
@[simp] theorem setAcc_packAcc (m : Memory AccWord) (k : AccName) (s : State) : (s.setAcc m k).packAcc = s.packAcc := by cases k <;> rfl
@[simp] theorem setAcc_packN (m : Memory AccWord) (k : AccName) (s : State) : (s.setAcc m k).packN = s.packN := by cases k <;> rfl
@[simp] theorem setAcc_pbuf (m : Memory AccWord) (k : AccName) (s : State) : (s.setAcc m k).pbuf = s.pbuf := by cases k <;> rfl
@[simp] theorem setAcc_payloadLen (m : Memory AccWord) (k : AccName) (s : State) : (s.setAcc m k).payloadLen = s.payloadLen := by cases k <;> rfl
@[simp] theorem setAcc_payloadRows (m : Memory AccWord) (k : AccName) (s : State) : (s.setAcc m k).payloadRows = s.payloadRows := by cases k <;> rfl
@[simp] theorem setAcc_cmdCount (m : Memory AccWord) (k : AccName) (s : State) : (s.setAcc m k).cmdCount = s.cmdCount := by cases k <;> rfl
@[simp] theorem setAcc_fault (m : Memory AccWord) (k : AccName) (s : State) : (s.setAcc m k).fault = s.fault := by cases k <;> rfl
@[simp] theorem setAcc_errCode (m : Memory AccWord) (k : AccName) (s : State) : (s.setAcc m k).errCode = s.errCode := by cases k <;> rfl
@[simp] theorem setAcc_errOpc (m : Memory AccWord) (k : AccName) (s : State) : (s.setAcc m k).errOpc = s.errOpc := by cases k <;> rfl
@[simp] theorem setAcc_errInfo (m : Memory AccWord) (k : AccName) (s : State) : (s.setAcc m k).errInfo = s.errInfo := by cases k <;> rfl
@[simp] theorem setAcc_errCmd (m : Memory AccWord) (k : AccName) (s : State) : (s.setAcc m k).errCmd = s.errCmd := by cases k <;> rfl
@[simp] theorem setAcc_out (m : Memory AccWord) (k : AccName) (s : State) : (s.setAcc m k).out = s.out := by cases k <;> rfl
@[simp] theorem setAcc_input (m : Memory AccWord) (k : AccName) (s : State) : (s.setAcc m k).input = s.input := by cases k <;> rfl
@[simp] theorem setAcc_transportReady (m : Memory AccWord) (k : AccName) (s : State) : (s.setAcc m k).transportReady = s.transportReady := by cases k <;> rfl

@[simp] theorem rotate_params (s : State) : (rotate s).params = s.params := by unfold rotate; split <;> rfl
@[simp] theorem rotate_w (s : State) : (rotate s).w = s.w := by unfold rotate; split <;> rfl
@[simp] theorem rotate_mode (s : State) : (rotate s).mode = s.mode := by unfold rotate; split <;> rfl
@[simp] theorem rotate_atkGe (s : State) : (rotate s).atkGe = s.atkGe := by unfold rotate; split <;> rfl
@[simp] theorem rotate_packLe (s : State) : (rotate s).packLe = s.packLe := by unfold rotate; split <;> rfl
@[simp] theorem rotate_frameW (s : State) : (rotate s).frameW = s.frameW := by unfold rotate; split <;> rfl
@[simp] theorem rotate_frameH (s : State) : (rotate s).frameH = s.frameH := by unfold rotate; split <;> rfl
@[simp] theorem rotate_tileValid (s : State) : (rotate s).tileValid = s.tileValid := by unfold rotate; split <;> rfl
@[simp] theorem rotate_tileLoading (s : State) : (rotate s).tileLoading = s.tileLoading := by unfold rotate; split <;> rfl
@[simp] theorem rotate_tileSide (s : State) : (rotate s).tileSide = s.tileSide := by unfold rotate; split <;> rfl
@[simp] theorem rotate_tileCount (s : State) : (rotate s).tileCount = s.tileCount := by unfold rotate; split <;> rfl
@[simp] theorem rotate_tlut (s : State) : (rotate s).tlut = s.tlut := by unfold rotate; split <;> rfl
@[simp] theorem rotate_active (s : State) : (rotate s).active = s.active := by unfold rotate; split <;> rfl
@[simp] theorem rotate_col (s : State) : (rotate s).col = s.col := by unfold rotate; split <;> rfl
@[simp] theorem rotate_row (s : State) : (rotate s).row = s.row := by unfold rotate; split <;> rfl
@[simp] theorem rotate_packAcc (s : State) : (rotate s).packAcc = s.packAcc := by unfold rotate; split <;> rfl
@[simp] theorem rotate_packN (s : State) : (rotate s).packN = s.packN := by unfold rotate; split <;> rfl
@[simp] theorem rotate_pbuf (s : State) : (rotate s).pbuf = s.pbuf := by unfold rotate; split <;> rfl
@[simp] theorem rotate_payloadLen (s : State) : (rotate s).payloadLen = s.payloadLen := by unfold rotate; split <;> rfl
@[simp] theorem rotate_payloadRows (s : State) : (rotate s).payloadRows = s.payloadRows := by unfold rotate; split <;> rfl
@[simp] theorem rotate_cmdCount (s : State) : (rotate s).cmdCount = s.cmdCount := by unfold rotate; split <;> rfl
@[simp] theorem rotate_fault (s : State) : (rotate s).fault = s.fault := by unfold rotate; split <;> rfl
@[simp] theorem rotate_errCode (s : State) : (rotate s).errCode = s.errCode := by unfold rotate; split <;> rfl
@[simp] theorem rotate_errOpc (s : State) : (rotate s).errOpc = s.errOpc := by unfold rotate; split <;> rfl
@[simp] theorem rotate_errInfo (s : State) : (rotate s).errInfo = s.errInfo := by unfold rotate; split <;> rfl
@[simp] theorem rotate_errCmd (s : State) : (rotate s).errCmd = s.errCmd := by unfold rotate; split <;> rfl
@[simp] theorem rotate_out (s : State) : (rotate s).out = s.out := by unfold rotate; split <;> rfl
@[simp] theorem rotate_input (s : State) : (rotate s).input = s.input := by unfold rotate; split <;> rfl
@[simp] theorem rotate_transportReady (s : State) : (rotate s).transportReady = s.transportReady := by unfold rotate; split <;> rfl

@[simp] theorem rowEnd_params (s : State) : (rowEnd s).params = s.params := rotate_params s
@[simp] theorem rowEnd_w (s : State) : (rowEnd s).w = s.w := rotate_w s
@[simp] theorem rowEnd_mode (s : State) : (rowEnd s).mode = s.mode := rotate_mode s
@[simp] theorem rowEnd_atkGe (s : State) : (rowEnd s).atkGe = s.atkGe := rotate_atkGe s
@[simp] theorem rowEnd_packLe (s : State) : (rowEnd s).packLe = s.packLe := rotate_packLe s
@[simp] theorem rowEnd_frameW (s : State) : (rowEnd s).frameW = s.frameW := rotate_frameW s
@[simp] theorem rowEnd_frameH (s : State) : (rowEnd s).frameH = s.frameH := rotate_frameH s
@[simp] theorem rowEnd_tileValid (s : State) : (rowEnd s).tileValid = s.tileValid := rotate_tileValid s
@[simp] theorem rowEnd_tileLoading (s : State) : (rowEnd s).tileLoading = s.tileLoading := rotate_tileLoading s
@[simp] theorem rowEnd_tileSide (s : State) : (rowEnd s).tileSide = s.tileSide := rotate_tileSide s
@[simp] theorem rowEnd_tileCount (s : State) : (rowEnd s).tileCount = s.tileCount := rotate_tileCount s
@[simp] theorem rowEnd_tlut (s : State) : (rowEnd s).tlut = s.tlut := rotate_tlut s
@[simp] theorem rowEnd_active (s : State) : (rowEnd s).active = s.active := rotate_active s
@[simp] theorem rowEnd_col (s : State) : (rowEnd s).col = 0 := rfl
@[simp] theorem rowEnd_row (s : State) : (rowEnd s).row = s.row + 1 := rfl
@[simp] theorem rowEnd_packAcc (s : State) : (rowEnd s).packAcc = s.packAcc := rotate_packAcc s
@[simp] theorem rowEnd_packN (s : State) : (rowEnd s).packN = s.packN := rotate_packN s
@[simp] theorem rowEnd_pbuf (s : State) : (rowEnd s).pbuf = s.pbuf := rotate_pbuf s
@[simp] theorem rowEnd_payloadLen (s : State) : (rowEnd s).payloadLen = s.payloadLen := rotate_payloadLen s
@[simp] theorem rowEnd_payloadRows (s : State) : (rowEnd s).payloadRows = s.payloadRows + 1 := rfl
@[simp] theorem rowEnd_cmdCount (s : State) : (rowEnd s).cmdCount = s.cmdCount := rotate_cmdCount s
@[simp] theorem rowEnd_fault (s : State) : (rowEnd s).fault = s.fault := rotate_fault s
@[simp] theorem rowEnd_errCode (s : State) : (rowEnd s).errCode = s.errCode := rotate_errCode s
@[simp] theorem rowEnd_errOpc (s : State) : (rowEnd s).errOpc = s.errOpc := rotate_errOpc s
@[simp] theorem rowEnd_errInfo (s : State) : (rowEnd s).errInfo = s.errInfo := rotate_errInfo s
@[simp] theorem rowEnd_errCmd (s : State) : (rowEnd s).errCmd = s.errCmd := rotate_errCmd s
@[simp] theorem rowEnd_out (s : State) : (rowEnd s).out = s.out := rotate_out s
@[simp] theorem rowEnd_input (s : State) : (rowEnd s).input = s.input := rotate_input s
@[simp] theorem rowEnd_transportReady (s : State) : (rowEnd s).transportReady = s.transportReady := rotate_transportReady s

/-- The array just stored is the array read. -/
@[simp] theorem setAcc_acc_same (m : Memory AccWord) (k : AccName) (s : State) : (s.setAcc m k).acc k = m := by
  cases k <;> rfl

/-- Storing one array leaves the others. -/
theorem setAcc_acc_other (m : Memory AccWord) {k j : AccName} (s : State) (h : j ≠ k) :
    (s.setAcc m k).acc j = s.acc j := by
  cases k <;> cases j <;> first | rfl | exact absurd rfl h

/-- `input` is the host's: replacing it changes no other field. -/
@[simp] theorem acc_with_input (s : State) (r : List HostInput) (k : AccName) :
    ({ s with input := r } : State).acc k = s.acc k := by cases k <;> rfl

end Sys2Proof.Machine
end

