-- ==== Sys2Proof/Laws/Ops.lean ====
section
/-! SUPPORT. For each shared operation of Machine/Ops.lean one lemma that says everything it can do, and the basic laws of
element memories. Provers cite these instead of unfolding. -/

namespace Sys2Proof.Machine

section Memories
variable {α : Type}

@[simp] theorem Memory.read_nil (a : Nat) : Memory.read ([] : Memory α) a = none := rfl

@[simp] theorem Memory.read_write_same (m : Memory α) (a : Nat) (v : α) : (m.write a v).read a = some v := by
  induction m with
  | nil => simp [Memory.write, Memory.read]
  | cons p m ih =>
    obtain ⟨k, x⟩ := p
    simp only [Memory.write]
    split
    · simp [Memory.read]
    · split
      · simp [Memory.read]
      · rename_i h
        simp [Memory.read, Ne.symm h, ih]

theorem Memory.read_write_other (m : Memory α) {a b : Nat} (v : α) (h : b ≠ a) : (m.write a v).read b = m.read b := by
  induction m with
  | nil => simp [Memory.write, Memory.read, Ne.symm h]
  | cons p m ih =>
    obtain ⟨k, x⟩ := p
    simp only [Memory.write]
    split
    · simp [Memory.read, Ne.symm h]
    · split
      · rename_i h2
        subst h2
        simp [Memory.read, Ne.symm h]
      · simp only [Memory.read, ih]

/-- A read after a write, whichever the indices. -/
theorem Memory.read_write (m : Memory α) (a b : Nat) (v : α) :
    (m.write a v).read b = if b = a then some v else m.read b := by
  split
  · next h => subst h; exact Memory.read_write_same m b v
  · next h => exact Memory.read_write_other m v h

/-- Every index of a memory after a write is the written one or was there before. -/
theorem Memory.mem_write {m : Memory α} {a : Nat} {v : α} {p : Nat × α} (h : p ∈ m.write a v) : p = (a, v) ∨ p ∈ m := by
  induction m with
  | nil => simpa [Memory.write] using h
  | cons q m ih =>
    obtain ⟨k, x⟩ := q
    simp only [Memory.write] at h
    split at h
    · simpa using h
    · split at h
      · rcases List.mem_cons.mp h with h | h
        · exact .inl h
        · exact .inr (List.mem_cons_of_mem _ h)
      · rcases List.mem_cons.mp h with h | h
        · exact .inr (h ▸ List.mem_cons_self)
        · exact (ih h).imp id (List.mem_cons_of_mem _)

/-- Writing keeps the canonical form. -/
theorem Memory.write_wf {m : Memory α} (h : m.wf) (a : Nat) (v : α) : (m.write a v).wf := by
  induction m with
  | nil => simp [Memory.write, Memory.wf]
  | cons p m ih =>
    obtain ⟨k, x⟩ := p
    have hk : ∀ q ∈ m, k < q.1 := (List.pairwise_cons.mp h).1
    have hm : Memory.wf m := (List.pairwise_cons.mp h).2
    simp only [Memory.write]
    split
    · next hlt =>
      refine List.pairwise_cons.mpr ⟨fun q hq => ?_, h⟩
      rcases List.mem_cons.mp hq with rfl | hq
      · exact hlt
      · exact Nat.lt_trans hlt (hk q hq)
    · split
      · next heq => subst heq; exact List.pairwise_cons.mpr ⟨hk, hm⟩
      · next hn1 hn2 =>
        refine List.pairwise_cons.mpr ⟨fun q hq => ?_, ih hm⟩
        rcases Memory.mem_write hq with rfl | hq
        · show k < a
          omega
        · exact hk q hq

/-- Writing inside a space stays inside it. -/
theorem Memory.write_within {m : Memory α} {n : Nat} (h : m.Within n) {a : Nat} (ha : a < n) (v : α) :
    (m.write a v).Within n := fun p hp => by
  rcases Memory.mem_write hp with rfl | hp
  · exact ha
  · exact h p hp

theorem Memory.fill_wf (n : Nat) (v : α) : (Memory.fill n v).wf := by
  simp only [Memory.wf, Memory.fill, List.pairwise_map]
  exact List.pairwise_lt_range

theorem Memory.fill_within (n : Nat) (v : α) : (Memory.fill n v).Within n := fun p hp => by
  obtain ⟨k, hk, rfl⟩ := List.mem_map.mp hp
  exact List.mem_range.mp hk

/-- A listed pair of a canonical memory is what its index reads. -/
theorem Memory.read_of_mem {m : Memory α} (h : m.wf) {p : Nat × α} (hp : p ∈ m) : m.read p.1 = some p.2 := by
  induction m with
  | nil => cases hp
  | cons q m ih =>
    obtain ⟨k, x⟩ := q
    have hk : ∀ r ∈ m, k < r.1 := (List.pairwise_cons.mp h).1
    rcases List.mem_cons.mp hp with rfl | hp
    · simp [Memory.read]
    · have := hk p hp
      simp [Memory.read, Nat.ne_of_lt this, ih (List.pairwise_cons.mp h).2 hp]

/-- A read that answers is of a listed pair. -/
theorem Memory.mem_of_read {m : Memory α} {a : Nat} {v : α} (h : m.read a = some v) : (a, v) ∈ m := by
  induction m with
  | nil => cases h
  | cons q m ih =>
    obtain ⟨k, x⟩ := q
    simp only [Memory.read] at h
    split at h
    · next hk => cases h; subst hk; exact List.mem_cons_self
    · exact List.mem_cons_of_mem _ (ih h)

theorem Memory.read_fill (n : Nat) (v : α) (k : Nat) :
    (Memory.fill n v).read k = if k < n then some v else none := by
  split
  · next h => exact Memory.read_of_mem (Memory.fill_wf n v) (List.mem_map.mpr ⟨k, List.mem_range.mpr h, rfl⟩)
  · next h =>
    cases hr : (Memory.fill n v).read k with
    | none => rfl
    | some x => exact absurd (Memory.fill_within n v _ (Memory.mem_of_read hr)) h

/-- Two canonical memories that read alike at every index are the same data. -/
theorem Memory.ext_of_wf {m n : Memory α} (hm : m.wf) (hn : n.wf) (h : ∀ k, m.read k = n.read k) : m = n := by
  induction m generalizing n with
  | nil =>
    cases n with
    | nil => rfl
    | cons q n =>
      have := h q.1
      simp [Memory.read_of_mem hn (List.mem_cons_self (l := n))] at this
  | cons p m ih =>
    cases n with
    | nil =>
      have := h p.1
      simp [Memory.read_of_mem hm (List.mem_cons_self (l := m))] at this
    | cons q n =>
      have hpm := (List.pairwise_cons.mp hm)
      have hqn := (List.pairwise_cons.mp hn)
      have h1 : q.1 = p.1 ∧ q = p := by
        have hp := Memory.mem_of_read ((h p.1).symm.trans (Memory.read_of_mem hm List.mem_cons_self))
        have hq := Memory.mem_of_read ((h q.1).trans (Memory.read_of_mem hn List.mem_cons_self))
        rcases List.mem_cons.mp hp with hp | hp
        · exact ⟨congrArg (·.1) hp.symm, hp.symm⟩
        · rcases List.mem_cons.mp hq with hq | hq
          · exact ⟨congrArg (·.1) hq, hq⟩
          · exact absurd (hpm.1 _ hq) (Nat.not_lt.mpr (Nat.le_of_lt (hqn.1 _ hp)))
      obtain ⟨-, rfl⟩ := h1
      congr 1
      refine ih hpm.2 hqn.2 fun k => ?_
      have hk := h k
      simp only [Memory.read] at hk
      split at hk
      · next he =>
        subst he
        have none_of {l : Memory α} (hl : ∀ r ∈ l, q.1 < r.1) : l.read q.1 = none := by
          cases hr : l.read q.1 with
          | none => rfl
          | some x => exact absurd (hl _ (Memory.mem_of_read hr)) (Nat.lt_irrefl _)
        rw [none_of hpm.1, none_of hqn.1]
      · exact hk

/-- MemRead answers exactly the written elements of the space. -/
theorem memRead_ok_iff {space : Space} {size : Nat} {m : Memory α} {k : Nat} {v : α} :
    memRead space size m k = .ok v ↔ k < size ∧ m.read k = some v := by
  unfold memRead
  split
  · next h => cases m.read k <;> simp [h]
  · next h => simp [h]

/-- MemWrite answers exactly inside the space, with one element replaced. -/
theorem memWrite_ok_iff {space : Space} {size : Nat} {m n : Memory α} {k : Nat} {v : α} :
    memWrite space size m k v = .ok n ↔ k < size ∧ n = m.write k v := by
  unfold memWrite
  split
  · next h => simp [h, eq_comm]
  · next h => simp [h]

/-- Reading a range answers exactly when every element of it is written, and then with those elements in order. -/
theorem memReadRange_ok_iff {space : Space} {size : Nat} {m : Memory α} {start n : Nat} {vs : List α} :
    memReadRange space size m start n = .ok vs ↔
      vs.length = n ∧ ∀ k, k < n → start + k < size ∧ m.read (start + k) = vs[k]? := by
  induction n generalizing start vs with
  | zero =>
    simp only [memReadRange, Except.ok.injEq, Nat.not_lt_zero, false_implies, implies_true, and_true]
    exact ⟨fun h => by simp [← h], fun h => (List.length_eq_zero_iff.mp h).symm⟩
  | succ n ih =>
    simp only [memReadRange]
    constructor
    · intro h
      cases hr : memRead space size m start with
      | error f => simp [hr] at h
      | ok v =>
        cases hrr : memReadRange space size m (start + 1) n with
        | error f => simp [hr, hrr] at h
        | ok ws =>
          simp only [hr, hrr, Except.ok.injEq] at h
          subst h
          obtain ⟨hlen, hall⟩ := ih.mp hrr
          obtain ⟨hs, hv⟩ := memRead_ok_iff.mp hr
          refine ⟨by simp [hlen], fun k hk => ?_⟩
          cases k with
          | zero => exact ⟨hs, by simpa using hv⟩
          | succ k =>
            have := hall k (by omega)
            rw [show start + (k + 1) = start + 1 + k by omega]
            exact ⟨this.1, by simpa using this.2⟩
    · rintro ⟨hlen, hall⟩
      cases vs with
      | nil => simp at hlen
      | cons v ws =>
        have h0 := hall 0 (by omega)
        have hr : memRead space size m start = .ok v := memRead_ok_iff.mpr ⟨h0.1, by simpa using h0.2⟩
        have hrr : memReadRange space size m (start + 1) n = .ok ws := ih.mpr ⟨by simpa using hlen, fun k hk => by
          have := hall (k + 1) (by omega)
          rw [show start + 1 + k = start + (k + 1) by omega]
          exact ⟨this.1, by simpa using this.2⟩⟩
        simp [hr, hrr]

end Memories

/-- An accumulator read answers exactly a written element of the array. -/
theorem accRead_ok_iff {k : AccName} {x : Nat} {s : State} {v : Int} :
    accRead k x s = .ok v ↔ x < s.params.maxWidth ∧ ∃ b, (s.acc k).read x = some b ∧ b.toInt = v := by
  unfold accRead
  cases h : memRead k.space s.params.maxWidth (s.acc k) x with
  | error f =>
    refine ⟨fun h' => by simp at h', fun ⟨hx, b, hb, _⟩ => ?_⟩
    rw [memRead_ok_iff.mpr ⟨hx, hb⟩] at h
    cases h
  | ok b =>
    obtain ⟨hx, hb⟩ := memRead_ok_iff.mp h
    simp [hx, hb]

/-- ACCk[x] <- ACCk[x] + d: what it needs, and the one element it changes. -/
theorem accAdd_ok_iff {k : AccName} {x : Nat} {d : Int} {s t : State} :
    accAdd k x d s = .ok t ↔ x < s.params.maxWidth ∧ ∃ b, (s.acc k).read x = some b ∧
      t = s.setAcc ((s.acc k).write x (BitVec.ofInt 16 (b.toInt + d))) k := by
  unfold accAdd
  cases h : accRead k x s with
  | error f =>
    refine ⟨fun h' => by simp at h', fun ⟨hx, b, hb, _⟩ => ?_⟩
    rw [accRead_ok_iff.mpr ⟨hx, b, hb, rfl⟩] at h
    cases h
  | ok v =>
    obtain ⟨hx, b, hb, rfl⟩ := accRead_ok_iff.mp h
    simp [memWrite, hx, hb, eq_comm]

/-- Appending to the payload: what it needs, and what it changes. -/
theorem payloadAppend_ok_iff {b : Byte} {s t : State} :
    payloadAppend b s = .ok t ↔ s.payloadLen.toNat < pbufBytes ∧
      t = { s with pbuf := s.pbuf.write s.payloadLen.toNat b, payloadLen := s.payloadLen + 1 } := by
  unfold payloadAppend memWrite
  split
  · next h => split at h <;> simp_all
  · next h => split at h <;> simp_all [eq_comm]

/-- The payload reads back exactly when PBUF[0 .. PAYLOAD_LEN − 1] is written, in index order. -/
theorem payloadBytes_ok_iff {s : State} {bytes : List Byte} :
    payloadBytes s = .ok bytes ↔ bytes.length = s.payloadLen.toNat ∧
      ∀ k, k < s.payloadLen.toNat → k < pbufBytes ∧ s.pbuf.read k = bytes[k]? := by
  unfold payloadBytes
  rw [memReadRange_ok_iff]
  simp

/-- How a command ends: it completes from the state its writes made, or the model stops. -/
theorem finish_eq_next_iff {r : Except Fault State} {t : State} :
    finish r = .next t ↔ ∃ u, r = .ok u ∧ t = { u with cmdCount := u.cmdCount + 1 } := by
  cases r <;> simp [finish, complete, eq_comm]

theorem finish_eq_fault_iff {r : Except Fault State} {f : Fault} : finish r = .fault f ↔ r = .error f := by
  cases r <;> simp [finish, complete]

end Sys2Proof.Machine
end

