-- ==== Sys2Proof/Laws/Exec.lean ====
section
/-! SUPPORT. What one command and one step can do, said once: an inversion lemma for each shared operation above the
memories, for `exec`, and for `step`. -/

namespace Sys2Proof.Machine

/-- Two states that differ at most in the accumulators. -/
def SameButAcc (s t : State) : Prop := t = { s with acc0 := t.acc0, acc1 := t.acc1, acc2 := t.acc2 }

theorem SameButAcc.refl (s : State) : SameButAcc s s := rfl

theorem SameButAcc.trans {s t u : State} (h : SameButAcc s t) (k : SameButAcc t u) : SameButAcc s u := by
  unfold SameButAcc at h k ⊢
  rw [k, h]

theorem setAcc_sameButAcc (m : Memory AccWord) (k : AccName) (s : State) : SameButAcc s (s.setAcc m k) := by
  cases k <;> rfl

theorem accAdd_sameButAcc {k : AccName} {x : Nat} {d : Int} {s t : State} (h : accAdd k x d s = .ok t) :
    SameButAcc s t := by
  obtain ⟨-, b, -, rfl⟩ := accAdd_ok_iff.mp h
  exact setAcc_sameButAcc _ _ _

/-- Adding shares touches the accumulators only. -/
theorem applyShares_sameButAcc {shares : List Share} {s t : State} (h : applyShares shares s = .ok t) :
    SameButAcc s t := by
  induction shares generalizing s with
  | nil => cases h; exact .refl _
  | cons a rest ih =>
    simp only [applyShares] at h
    cases hr : accAdd a.acc a.column a.amount s with
    | error f => simp [hr] at h
    | ok u => exact (accAdd_sameButAcc hr).trans (ih (by simpa [hr] using h))

/-- A decision touches the accumulators only (R144, R160), whatever the mode. -/
theorem ditherDecide_sameButAcc {sample q : Byte} {s t : State} (h : ditherDecide sample s = .ok (q, t)) :
    SameButAcc s t := by
  unfold ditherDecide at h
  split at h
  · cases h; exact .refl s
  · split at h
    · cases h
    · cases h; exact .refl s
  · unfold decideFs at h
    split at h
    · cases h
    · split at h
      · cases h
      · next hs => cases h; exact applyShares_sameButAcc hs
  · unfold decideAtk at h
    split at h
    · cases h
    · split at h
      · cases h
      · next hs => cases h; exact applyShares_sameButAcc hs
  · cases h; exact .refl s

/-- pack (R163): a byte appended and the packer emptied, or one more bit held. -/
theorem pack_ok_iff {bit last : Bool} {s t : State} :
    pack bit last s = .ok t ↔
      ((s.packN.toNat + 1 = 8 ∨ last = true) ∧ s.payloadLen.toNat < pbufBytes ∧
        t = { s with
          pbuf := s.pbuf.write s.payloadLen.toNat (leftAlign (shiftIn s.packAcc bit) (s.packN.toNat + 1))
          payloadLen := s.payloadLen + 1, packAcc := 0, packN := 0 }) ∨
      (¬(s.packN.toNat + 1 = 8 ∨ last = true) ∧
        t = { s with packAcc := shiftIn s.packAcc bit, packN := s.packN + 1 }) := by
  unfold pack
  by_cases hc : s.packN.toNat + 1 = 8 ∨ last = true
  · simp only [hc, if_true]
    cases h : payloadAppend (leftAlign (shiftIn s.packAcc bit) (s.packN.toNat + 1)) s with
    | error f =>
      refine ⟨fun h' => by simp at h', fun h' => ?_⟩
      rcases h' with ⟨-, hl, -⟩ | ⟨hn, -⟩
      · rw [payloadAppend_ok_iff.mpr ⟨hl, rfl⟩] at h; cases h
      · exact absurd trivial hn
    | ok u =>
      obtain ⟨hl, rfl⟩ := payloadAppend_ok_iff.mp h
      simp [hl, eq_comm]
  · rw [if_neg hc]
    simp only [hc, false_and, not_false_eq_true, true_and, false_or, Except.ok.injEq, eq_comm]

/-- frame (R174): one of the six faults of R209, or the frame emitted and the payload emptied. -/
theorem frame_next_cases {opc : BitVec 8} {w h : Int} {s t : State} (hf : frame opc w h s = .next t) :
    (∃ e info, t = takeFault opc e info s ∧
      ((e = .contractViolation ∧ info = 8) ∨ (e = .outOfRange ∧ (info = 0 ∨ info = 1)) ∨
        (e = .capacityExceeded ∧ info = 0) ∨ (e = .sizeMismatch ∧ info = 0))) ∨
    (s.col = 0 ∧ 0 ≤ w ∧ w ≤ 65535 ∧ 0 ≤ h ∧ h ≤ 65535 ∧ w * h ≤ 4096 ∧ w * h = s.payloadLen.toNat ∧
      ∃ bytes, payloadBytes s = .ok bytes ∧
        t = { s with
          out := s.out ++ (frameHeader w h ++ bytes), payloadLen := 0, payloadRows := 0
          cmdCount := s.cmdCount + 1 }) := by
  unfold frame raise at hf
  split at hf
  · cases hf; exact .inl ⟨_, _, rfl, .inl ⟨rfl, rfl⟩⟩
  · split at hf
    · cases hf; exact .inl ⟨_, _, rfl, .inr (.inl ⟨rfl, .inl rfl⟩)⟩
    · split at hf
      · cases hf; exact .inl ⟨_, _, rfl, .inr (.inl ⟨rfl, .inr rfl⟩)⟩
      · split at hf
        · cases hf; exact .inl ⟨_, _, rfl, .inr (.inr (.inl ⟨rfl, rfl⟩))⟩
        · split at hf
          · cases hf; exact .inl ⟨_, _, rfl, .inr (.inr (.inr ⟨rfl, rfl⟩))⟩
          · next hcol hw hh hcap hsize =>
            obtain ⟨u, hu, rfl⟩ := finish_eq_next_iff.mp hf
            unfold emitFrame at hu
            simp only [frameCapacity] at hcap
            refine .inr ⟨not_not.mp hcol, by omega, by omega, by omega, by omega, by omega, not_not.mp hsize, ?_⟩
            split at hu
            · cases hu
            · next bytes hb => cases hu; exact ⟨bytes, hb, rfl⟩

/-- What a completed PIX may change: the position, the packer, the payload, the accumulators, CMD_COUNT. -/
theorem pixDatapath_frame {sample : Byte} {last : Bool} {s t : State} (h : pixDatapath sample last s = .ok t) :
    t = { s with
      packAcc := t.packAcc, packN := t.packN, pbuf := t.pbuf, payloadLen := t.payloadLen
      payloadRows := t.payloadRows, row := t.row, col := t.col, acc0 := t.acc0, acc1 := t.acc1, acc2 := t.acc2 } := by
  unfold pixDatapath at h
  split at h
  · cases h
  · next q u hd =>
    have hsame : SameButAcc s u := ditherDecide_sameButAcc hd
    unfold SameButAcc at hsame
    split at h
    · cases h
    · next v hv =>
      cases h
      rw [hsame] at hv
      rcases pack_ok_iff.mp hv with ⟨-, -, rfl⟩ | ⟨-, rfl⟩ <;> cases last
      · rfl
      · unfold advance rowEnd rotate
        cases s.mode <;> rfl
      · rfl
      · unfold advance rowEnd rotate
        cases s.mode <;> rfl

/-- Every command that answers a next state: it took a fault, or it was SRST, or it completed and left what is not its own
(the host's channels, the parameters, the fault record), advanced CMD_COUNT by one, and, but for a frame, kept OUT. -/
theorem exec_next_cases {i : Instr} {s t : State} (h : exec i s = .next t) :
    (∃ e info, t = takeFault i.opcode.bits e info s ∧ (e.code, info) ∈ faultTable) ∨
    (i = .srst ∧ t = resetState s) ∨
    (t.cmdCount = s.cmdCount + 1 ∧ t.params = s.params ∧ t.input = s.input ∧ t.transportReady = s.transportReady ∧
      t.fault = s.fault ∧ t.errCode = s.errCode ∧ t.errOpc = s.errOpc ∧ t.errInfo = s.errInfo ∧
      t.errCmd = s.errCmd ∧ (∃ bytes, t.out = s.out ++ bytes) ∧ (i ≠ .build → i ≠ .builda → t.out = s.out)) := by
  have framed {opc : BitVec 8} {w h : Int} (hf : frame opc w h s = .next t) :
      (∃ e info, t = takeFault opc e info s ∧ (e.code, info) ∈ faultTable) ∨
      (t.cmdCount = s.cmdCount + 1 ∧ t.params = s.params ∧ t.input = s.input ∧
        t.transportReady = s.transportReady ∧ t.fault = s.fault ∧ t.errCode = s.errCode ∧ t.errOpc = s.errOpc ∧
        t.errInfo = s.errInfo ∧ t.errCmd = s.errCmd ∧ (∃ bytes, t.out = s.out ++ bytes)) := by
    rcases frame_next_cases hf with ⟨e, info, rfl, hk⟩ | ⟨-, -, -, -, -, -, -, bytes, -, rfl⟩
    · refine .inl ⟨e, info, rfl, ?_⟩
      rcases hk with ⟨rfl, rfl⟩ | ⟨rfl, rfl | rfl⟩ | ⟨rfl, rfl⟩ | ⟨rfl, rfl⟩ <;> decide
    · exact .inr ⟨rfl, rfl, rfl, rfl, rfl, rfl, rfl, rfl, rfl, _, rfl⟩
  cases i with
  | nop => cases h; exact .inr (.inr ⟨rfl, rfl, rfl, rfl, rfl, rfl, rfl, rfl, rfl, ⟨[], by simp⟩, fun _ _ => rfl⟩)
  | srst => cases h; exact .inr (.inl ⟨rfl, rfl⟩)
  | setw w =>
    simp only [exec, execSetw, raise, complete] at h
    split at h
    · cases h; exact .inl ⟨_, _, rfl, by decide⟩
    · split at h
      · cases h; exact .inl ⟨_, _, rfl, by decide⟩
      · cases h; exact .inr (.inr ⟨rfl, rfl, rfl, rfl, rfl, rfl, rfl, rfl, rfl, ⟨[], by simp⟩, fun _ _ => rfl⟩)
  | setmode m =>
    simp only [exec, execSetmode, raise, complete] at h
    split at h
    · cases h; exact .inl ⟨_, _, rfl, by decide⟩
    · split at h
      · cases h; exact .inl ⟨_, _, rfl, by decide⟩
      · cases h; exact .inr (.inr ⟨rfl, rfl, rfl, rfl, rfl, rfl, rfl, rfl, rfl, ⟨[], by simp⟩, fun _ _ => rfl⟩)
  | setcmp a b =>
    simp only [exec, execSetcmp, raise, complete] at h
    split at h
    · cases h; exact .inl ⟨_, _, rfl, by decide⟩
    · cases h; exact .inr (.inr ⟨rfl, rfl, rfl, rfl, rfl, rfl, rfl, rfl, rfl, ⟨[], by simp⟩, fun _ _ => rfl⟩)
  | setfw v => cases h; exact .inr (.inr ⟨rfl, rfl, rfl, rfl, rfl, rfl, rfl, rfl, rfl, ⟨[], by simp⟩, fun _ _ => rfl⟩)
  | setfh v => cases h; exact .inr (.inr ⟨rfl, rfl, rfl, rfl, rfl, rfl, rfl, rfl, rfl, ⟨[], by simp⟩, fun _ _ => rfl⟩)
  | tlbegin side =>
    simp only [exec, execTlbegin, raise, complete] at h
    split at h
    · cases h; exact .inl ⟨_, _, rfl, by decide⟩
    · split at h
      · cases h; exact .inl ⟨_, _, rfl, by decide⟩
      · cases h; exact .inr (.inr ⟨rfl, rfl, rfl, rfl, rfl, rfl, rfl, rfl, rfl, ⟨[], by simp⟩, fun _ _ => rfl⟩)
  | tldata d =>
    simp only [exec, execTldata, raise] at h
    split at h
    · cases h; exact .inl ⟨_, _, rfl, by decide⟩
    · split at h
      · cases h; exact .inl ⟨_, _, rfl, by decide⟩
      · obtain ⟨u, hu, rfl⟩ := finish_eq_next_iff.mp h
        unfold tileAppend at hu
        split at hu
        · cases hu
        · cases hu
          exact .inr (.inr ⟨rfl, rfl, rfl, rfl, rfl, rfl, rfl, rfl, rfl, ⟨[], by simp⟩, fun _ _ => rfl⟩)
  | tlend =>
    simp only [exec, execTlend, raise, complete] at h
    split at h
    · cases h; exact .inl ⟨_, _, rfl, by decide⟩
    · split at h
      · cases h; exact .inl ⟨_, _, rfl, by decide⟩
      · cases h; exact .inr (.inr ⟨rfl, rfl, rfl, rfl, rfl, rfl, rfl, rfl, rfl, ⟨[], by simp⟩, fun _ _ => rfl⟩)
  | start =>
    simp only [exec, execStart, raise, complete] at h
    split at h
    · cases h; exact .inl ⟨_, _, rfl, by decide⟩
    · split at h
      · cases h; exact .inl ⟨_, _, rfl, by decide⟩
      · split at h
        · cases h; exact .inl ⟨_, _, rfl, by decide⟩
        · cases h; exact .inr (.inr ⟨rfl, rfl, rfl, rfl, rfl, rfl, rfl, rfl, rfl, ⟨[], by simp⟩, fun _ _ => rfl⟩)
  | pix sample last =>
    simp only [exec, execPix, raise] at h
    split at h
    · cases h; exact .inl ⟨_, _, rfl, by decide⟩
    · split at h
      · cases h; exact .inl ⟨_, _, rfl, by decide⟩
      · split at h
        · cases h; exact .inl ⟨_, _, rfl, by decide⟩
        · split at h
          · cases h; exact .inl ⟨_, _, rfl, by decide⟩
          · obtain ⟨u, hu, rfl⟩ := finish_eq_next_iff.mp h
            rw [pixDatapath_frame hu]
            exact .inr (.inr ⟨rfl, rfl, rfl, rfl, rfl, rfl, rfl, rfl, rfl, ⟨[], by simp⟩, fun _ _ => rfl⟩)
  | endStream =>
    simp only [exec, execEndStream, raise, complete] at h
    split at h
    · cases h; exact .inl ⟨_, _, rfl, by decide⟩
    · split at h
      · cases h; exact .inl ⟨_, _, rfl, by decide⟩
      · cases h; exact .inr (.inr ⟨rfl, rfl, rfl, rfl, rfl, rfl, rfl, rfl, rfl, ⟨[], by simp⟩, fun _ _ => rfl⟩)
  | build =>
    rcases framed h with hf | ⟨h1, h2, h3, h4, h5, h6, h7, h8, h9, h10⟩
    · exact .inl hf
    · exact .inr (.inr ⟨h1, h2, h3, h4, h5, h6, h7, h8, h9, h10, fun hb => absurd rfl hb⟩)
  | builda =>
    rcases framed h with hf | ⟨h1, h2, h3, h4, h5, h6, h7, h8, h9, h10⟩
    · exact .inl hf
    · exact .inr (.inr ⟨h1, h2, h3, h4, h5, h6, h7, h8, h9, h10, fun _ hb => absurd rfl hb⟩)

/-- What one step does, by the oldest host input (R95, R207, R220, R222). -/
theorem step_next_cases {s t : State} (h : step s = .next t) :
    (s.input = [] ∧ t = s) ∨
    ∃ i rest, s.input = i :: rest ∧
      ((∃ w, i = .command w ∧ holds w s = true ∧ t = s) ∨
       (∃ w, i = .command w ∧ holds w s = false ∧ runWord w { s with input := rest } = .next t) ∨
       (i = .hardReset ∧ t = resetState { s with input := rest }) ∨
       (∃ w n, i = .resetDuring w n ∧ t = cutByReset w n { s with input := rest })) := by
  unfold step at h
  split at h
  · next hi => cases h; exact .inl ⟨hi, rfl⟩
  · next i rest hi =>
    refine .inr ⟨i, rest, hi, ?_⟩
    cases i with
    | command w =>
      simp only [takeInput] at h
      split at h
      · next hh => cases h; exact .inl ⟨w, rfl, hh, rfl⟩
      · next hh => exact .inr (.inl ⟨w, rfl, by simpa using hh, h⟩)
    | hardReset => cases h; exact .inr (.inr (.inl ⟨rfl, rfl⟩))
    | resetDuring w n => cases h; exact .inr (.inr (.inr ⟨w, n, rfl, rfl⟩))
    | wordDuringReset w => cases h

/-- The common step on one word (R95, R207): a faulted core resets or discards; another takes ILLEGAL_COMMAND or executes. -/
theorem runWord_next_cases {w : CommandWord} {s t : State} (h : runWord w s = .next t) :
    (s.fault = true ∧ w = srstWord ∧ t = resetState s) ∨
    (s.fault = true ∧ w ≠ srstWord ∧ t = s) ∨
    (s.fault = false ∧ ∃ e, decode w = .error e ∧ t = takeFault (opcField w) .illegalCommand e.info s) ∨
    (s.fault = false ∧ ∃ i, decode w = .ok i ∧ exec i s = .next t) := by
  unfold runWord at h
  split at h
  · next hf =>
    split at h
    · next hw => cases h; exact .inl ⟨hf, hw, rfl⟩
    · next hw => cases h; exact .inr (.inl ⟨hf, hw, rfl⟩)
  · next hf =>
    have hf' : s.fault = false := by simpa using hf
    split at h
    · next e he => cases h; exact .inr (.inr (.inl ⟨hf', e, he, rfl⟩))
    · next i hi => exact .inr (.inr (.inr ⟨hf', i, hi, h⟩))

/-- The legality the meaning of SETW checks is the one well-formedness asks (R79 check 4). -/
theorem widthLegal_eq_wellFormed (p : Params) (w : BitVec 16) : widthLegal p w = (Instr.setw w).wellFormed p := rfl

/-- The values SETMODE takes are those well-formedness asks (R79 check 4). -/
theorem mode_ofBits_isSome_eq_wellFormed (p : Params) (m : BitVec 3) :
    (Mode.ofBits m).isSome = (Instr.setmode m).wellFormed p := by
  have hm : m.toNat < 8 := m.isLt
  simp only [Mode.ofBits, Instr.wellFormed]
  generalize m.toNat = n at hm
  interval_cases n <;> rfl

/-- floorDiv is the quotient R12 defines. -/
theorem floorDiv_spec (a : Int) {b : Int} (hb : 0 < b) : floorDiv a b * b ≤ a ∧ a < (floorDiv a b + 1) * b := by
  unfold floorDiv
  have h1 := Int.emod_add_mul_ediv a b
  have h2 := Int.emod_nonneg a (ne_of_gt hb)
  have h3 := Int.emod_lt_of_pos a hb
  constructor <;> nlinarith

end Sys2Proof.Machine
end

