-- ==== Sys2Proof/Laws/Input.lean ====
section
/-! SUPPORT. No command reads what the host has sent and the core has not yet taken: every operation commutes with
replacing the command channel. So a word emits the same bytes whether it still stands in the channel or not. -/

namespace Sys2Proof.Machine

/-- The command channel replaced. -/
def State.withInput (inp : List HostInput) (s : State) : State := { s with input := inp }

@[simp] theorem withInput_input (s : State) (inp : List HostInput) : (s.withInput inp).input = inp := id rfl
@[simp] theorem withInput_params (s : State) (inp : List HostInput) : (s.withInput inp).params = s.params := id rfl
@[simp] theorem withInput_w (s : State) (inp : List HostInput) : (s.withInput inp).w = s.w := id rfl
@[simp] theorem withInput_mode (s : State) (inp : List HostInput) : (s.withInput inp).mode = s.mode := id rfl
@[simp] theorem withInput_atkGe (s : State) (inp : List HostInput) : (s.withInput inp).atkGe = s.atkGe := id rfl
@[simp] theorem withInput_packLe (s : State) (inp : List HostInput) : (s.withInput inp).packLe = s.packLe := id rfl
@[simp] theorem withInput_frameW (s : State) (inp : List HostInput) : (s.withInput inp).frameW = s.frameW := id rfl
@[simp] theorem withInput_frameH (s : State) (inp : List HostInput) : (s.withInput inp).frameH = s.frameH := id rfl
@[simp] theorem withInput_tileValid (s : State) (inp : List HostInput) : (s.withInput inp).tileValid = s.tileValid := id rfl
@[simp] theorem withInput_tileLoading (s : State) (inp : List HostInput) : (s.withInput inp).tileLoading = s.tileLoading := id rfl
@[simp] theorem withInput_tileSide (s : State) (inp : List HostInput) : (s.withInput inp).tileSide = s.tileSide := id rfl
@[simp] theorem withInput_tileCount (s : State) (inp : List HostInput) : (s.withInput inp).tileCount = s.tileCount := id rfl
@[simp] theorem withInput_tlut (s : State) (inp : List HostInput) : (s.withInput inp).tlut = s.tlut := id rfl
@[simp] theorem withInput_active (s : State) (inp : List HostInput) : (s.withInput inp).active = s.active := id rfl
@[simp] theorem withInput_col (s : State) (inp : List HostInput) : (s.withInput inp).col = s.col := id rfl
@[simp] theorem withInput_row (s : State) (inp : List HostInput) : (s.withInput inp).row = s.row := id rfl
@[simp] theorem withInput_acc0 (s : State) (inp : List HostInput) : (s.withInput inp).acc0 = s.acc0 := id rfl
@[simp] theorem withInput_acc1 (s : State) (inp : List HostInput) : (s.withInput inp).acc1 = s.acc1 := id rfl
@[simp] theorem withInput_acc2 (s : State) (inp : List HostInput) : (s.withInput inp).acc2 = s.acc2 := id rfl
@[simp] theorem withInput_packAcc (s : State) (inp : List HostInput) : (s.withInput inp).packAcc = s.packAcc := id rfl
@[simp] theorem withInput_packN (s : State) (inp : List HostInput) : (s.withInput inp).packN = s.packN := id rfl
@[simp] theorem withInput_pbuf (s : State) (inp : List HostInput) : (s.withInput inp).pbuf = s.pbuf := id rfl
@[simp] theorem withInput_payloadLen (s : State) (inp : List HostInput) : (s.withInput inp).payloadLen = s.payloadLen := id rfl
@[simp] theorem withInput_payloadRows (s : State) (inp : List HostInput) : (s.withInput inp).payloadRows = s.payloadRows := id rfl
@[simp] theorem withInput_cmdCount (s : State) (inp : List HostInput) : (s.withInput inp).cmdCount = s.cmdCount := id rfl
@[simp] theorem withInput_fault (s : State) (inp : List HostInput) : (s.withInput inp).fault = s.fault := id rfl
@[simp] theorem withInput_errCode (s : State) (inp : List HostInput) : (s.withInput inp).errCode = s.errCode := id rfl
@[simp] theorem withInput_errOpc (s : State) (inp : List HostInput) : (s.withInput inp).errOpc = s.errOpc := id rfl
@[simp] theorem withInput_errInfo (s : State) (inp : List HostInput) : (s.withInput inp).errInfo = s.errInfo := id rfl
@[simp] theorem withInput_errCmd (s : State) (inp : List HostInput) : (s.withInput inp).errCmd = s.errCmd := id rfl
@[simp] theorem withInput_out (s : State) (inp : List HostInput) : (s.withInput inp).out = s.out := id rfl
@[simp] theorem withInput_transportReady (s : State) (inp : List HostInput) : (s.withInput inp).transportReady = s.transportReady := id rfl

/-- A function of the next state. -/
def mapNext (f : State → State) : StepOutcome → StepOutcome
  | .next t => .next (f t)
  | .fault e => .fault e
  | .refused r => .refused r

theorem accRead_withInput (k : AccName) (x : Nat) (s : State) (inp : List HostInput) :
    accRead k x (s.withInput inp) = accRead k x s := by cases k <;> rfl

theorem accAdd_withInput (k : AccName) (x : Nat) (d : Int) (s : State) (inp : List HostInput) :
    accAdd k x d (s.withInput inp) = (accAdd k x d s).map (State.withInput inp) := by
  unfold accAdd
  rw [accRead_withInput]
  cases accRead k x s with
  | error f => rfl
  | ok v =>
    cases k <;> (simp only [State.acc, State.withInput]; cases memWrite _ _ _ x (BitVec.ofInt 16 (v + d)) <;> rfl)

theorem applyShares_withInput (l : List Share) (s : State) (inp : List HostInput) :
    applyShares l (s.withInput inp) = (applyShares l s).map (State.withInput inp) := by
  induction l generalizing s with
  | nil => rfl
  | cons a l ih =>
    simp only [applyShares, accAdd_withInput]
    cases accAdd a.acc a.column a.amount s with
    | error f => rfl
    | ok t => exact ih t

theorem pack_withInput (b l : Bool) (s : State) (inp : List HostInput) :
    pack b l (s.withInput inp) = (pack b l s).map (State.withInput inp) := by
  unfold pack payloadAppend
  simp only [State.withInput]
  by_cases hc : s.packN.toNat + 1 = 8 ∨ l = true <;> simp only [hc, if_true, if_false]
  · cases memWrite .pbuf pbufBytes s.pbuf s.payloadLen.toNat (leftAlign (shiftIn s.packAcc b) (s.packN.toNat + 1)) <;> rfl
  · rfl

theorem ditherDecide_withInput (x : Byte) (s : State) (inp : List HostInput) :
    ditherDecide x (s.withInput inp) = (ditherDecide x s).map (fun p => (p.1, p.2.withInput inp)) := by
  unfold ditherDecide
  rw [withInput_mode]
  cases s.mode with
  | bayer => rfl
  | blue =>
    simp only [show decideBlue x (s.withInput inp) = decideBlue x s from rfl]
    cases decideBlue x s <;> rfl
  | fs =>
    simp only [decideFs, diffusionTotal]
    rw [withInput_col, withInput_w, accRead_withInput]
    cases accRead .acc0 s.col.toNat s with
    | error f => rfl
    | ok v =>
      simp only [applyShares_withInput]
      cases applyShares _ s <;> rfl
  | atk =>
    simp only [decideAtk, diffusionTotal]
    rw [withInput_col, withInput_w, withInput_atkGe, accRead_withInput]
    cases accRead .acc0 s.col.toNat s with
    | error f => rfl
    | ok v =>
      simp only [applyShares_withInput]
      cases applyShares _ s <;> rfl
  | pass => rfl

theorem pixDatapath_withInput (x : Byte) (l : Bool) (s : State) (inp : List HostInput) :
    pixDatapath x l (s.withInput inp) = (pixDatapath x l s).map (State.withInput inp) := by
  unfold pixDatapath
  rw [ditherDecide_withInput]
  cases ditherDecide x s with
  | error f => rfl
  | ok p =>
    simp only [Except.map, pack_withInput]
    rw [withInput_packLe]
    cases pack (isDark p.2.packLe p.1) l p.2 with
    | error f => rfl
    | ok u =>
      cases l
      · rfl
      · simp only [advance, rowEnd, rotate, if_true, withInput_mode]
        cases u.mode <;> rfl

theorem frame_withInput (o : BitVec 8) (w h : Int) (s : State) (inp : List HostInput) :
    frame o w h (s.withInput inp) = mapNext (State.withInput inp) (frame o w h s) := by
  unfold frame
  simp only [withInput_col, withInput_payloadLen]
  split; · rfl
  split; · rfl
  split; · rfl
  split; · rfl
  split; · rfl
  unfold emitFrame
  rw [show payloadBytes (s.withInput inp) = payloadBytes s from rfl]
  cases payloadBytes s <;> rfl

theorem exec_withInput (i : Instr) (s : State) (inp : List HostInput) :
    exec i (s.withInput inp) = mapNext (State.withInput inp) (exec i s) := by
  cases i with
  | nop => rfl
  | srst => rfl
  | setw w =>
    show execSetw w (s.withInput inp) = _
    simp only [exec, execSetw, withInput_params, withInput_active]
    split; · rfl
    split <;> rfl
  | setmode m =>
    simp only [exec, execSetmode, withInput_active]
    split; · rfl
    split <;> rfl
  | setcmp a b =>
    simp only [exec, execSetcmp, withInput_active]
    split <;> rfl
  | setfw v => rfl
  | setfh v => rfl
  | tlbegin side =>
    simp only [exec, execTlbegin, withInput_params, withInput_tileValid, withInput_tileLoading]
    split; · rfl
    split <;> rfl
  | tldata d =>
    simp only [exec, execTldata, State.tileArea, tileAppend, withInput_params, withInput_tileLoading, withInput_tileCount, withInput_tileSide, withInput_tlut]
    split; · rfl
    by_cases hc : s.tileCount.toNat = s.tileSide.toNat * s.tileSide.toNat <;> simp only [hc, if_true, if_false]; · rfl
    cases memWrite .tlut (tlutSize s.params) s.tlut s.tileCount.toNat d <;> rfl
  | tlend =>
    simp only [exec, execTlend, State.tileArea, withInput_tileLoading, withInput_tileCount, withInput_tileSide]
    split; · rfl
    by_cases hc : s.tileCount.toNat = s.tileSide.toNat * s.tileSide.toNat <;> simp only [hc, if_true, if_false, ne_eq, not_true_eq_false, not_false_eq_true] <;> rfl
  | start =>
    simp only [exec, execStart, withInput_active, withInput_w, withInput_mode, withInput_tileValid]
    split; · rfl
    split; · rfl
    split <;> rfl
  | pix x l =>
    simp only [exec, execPix, pixDatapath_withInput, withInput_active, withInput_w, withInput_col, withInput_packN, withInput_payloadLen]
    split; · rfl
    split; · rfl
    split; · rfl
    split; · rfl
    cases pixDatapath x l s <;> rfl
  | endStream =>
    simp only [exec, execEndStream, withInput_active, withInput_col]
    split; · rfl
    split <;> rfl
  | build => exact frame_withInput ..
  | builda => exact frame_withInput ..


theorem runWord_withInput (w : CommandWord) (s : State) (inp : List HostInput) :
    runWord w (s.withInput inp) = mapNext (State.withInput inp) (runWord w s) := by
  unfold runWord
  rw [withInput_fault]
  split
  · split <;> rfl
  · split
    · rfl
    · exact exec_withInput _ s inp

theorem emittedBy_withInput (w : CommandWord) (s : State) (inp : List HostInput) :
    emittedBy w (s.withInput inp) = emittedBy w s := by
  unfold emittedBy
  rw [runWord_withInput]
  cases runWord w s <;> rfl

/-- What a command emits is appended to OUT. -/
theorem runWord_out {w : CommandWord} {s t : State} (h : runWord w s = .next t) : t.out = s.out ++ emittedBy w s := by
  have hap : ∃ bytes, t.out = s.out ++ bytes := by
    rcases runWord_next_cases h with ⟨-, -, rfl⟩ | ⟨-, -, rfl⟩ | ⟨-, e, -, rfl⟩ | ⟨-, i, -, hx⟩
    · exact ⟨[], by simp⟩
    · exact ⟨[], by simp⟩
    · exact ⟨[], by simp⟩
    · rcases exec_next_cases hx with ⟨e, info, rfl, -⟩ | ⟨-, rfl⟩ | hc
      · exact ⟨[], by simp⟩
      · exact ⟨[], by simp⟩
      · exact hc.2.2.2.2.2.2.2.2.2.1
  obtain ⟨bytes, hb⟩ := hap
  simp [emittedBy, h, hb]

end Sys2Proof.Machine
end

