-- ==== Sys2Proof/Laws/PerInstr.lean ====
section
/-! SUPPORT. Statements made per instruction, one lemma per constructor of Instr. -/

namespace Sys2Proof.Laws.EncodingLayout

/-- Where the encoder puts a command's parts (R78, R83): its opcode in [63:56], zeros in [55:32], its operand in [31:0]
with every must-be-zero bit clear. -/
def Statement (i : Instr) : Prop :=
  opcField (encode i) = i.opcode.bits ∧ rsvField (encode i) = 0 ∧ operandField (encode i) = i.operand ∧
    i.operand &&& i.opcode.mbz = 0

/-- The word of an opcode and an operand. -/
theorem opcField_word (o : BitVec 8) (x : BitVec 32) : opcField ((o.setWidth 64 <<< 56) ||| x.setWidth 64) = o := by
  apply BitVec.eq_of_getLsbD_eq
  intro k hk
  have h1 : 56 + k < 64 := by omega
  simp [opcField, hk, h1, BitVec.getLsbD_of_ge x (56 + k) (by omega)]

theorem rsvField_word (o : BitVec 8) (x : BitVec 32) : rsvField ((o.setWidth 64 <<< 56) ||| x.setWidth 64) = 0 := by
  apply BitVec.eq_of_getLsbD_eq
  intro k hk
  have h1 : 32 + k < 56 := by omega
  simp [rsvField, h1]

theorem operandField_word (o : BitVec 8) (x : BitVec 32) :
    operandField ((o.setWidth 64 <<< 56) ||| x.setWidth 64) = x := by
  apply BitVec.eq_of_getLsbD_eq
  intro k hk
  have h1 : k < 56 := by omega
  have h2 : k < 64 := by omega
  simp [operandField, hk, h1, h2]

/-- The layout, given that the operand's must-be-zero bits are clear. -/
theorem of_mbz {i : Instr} (h : i.operand &&& i.opcode.mbz = 0) : Statement i :=
  ⟨opcField_word _ _, rsvField_word _ _, operandField_word _ _, h⟩

theorem nop : Statement .nop := of_mbz (by decide)

theorem srst : Statement .srst := of_mbz (by decide)

theorem setw (w : BitVec 16) : Statement (.setw w) := of_mbz (by
  apply BitVec.eq_of_getLsbD_eq
  intro k hk
  interval_cases k <;> simp [Instr.operand, Instr.opcode, Opcode.mbz])

theorem setmode (m : BitVec 3) : Statement (.setmode m) := of_mbz (by
  apply BitVec.eq_of_getLsbD_eq
  intro k hk
  interval_cases k <;> simp [Instr.operand, Instr.opcode, Opcode.mbz])

theorem setcmp (atkGe packLe : Bool) : Statement (.setcmp atkGe packLe) :=
  of_mbz (by cases atkGe <;> cases packLe <;> decide)

theorem setfw (v : BitVec 32) : Statement (.setfw v) := of_mbz (by simp [Instr.opcode, Opcode.mbz])

theorem setfh (v : BitVec 32) : Statement (.setfh v) := of_mbz (by simp [Instr.opcode, Opcode.mbz])

theorem tlbegin (s : BitVec 16) : Statement (.tlbegin s) := of_mbz (by
  apply BitVec.eq_of_getLsbD_eq
  intro k hk
  interval_cases k <;> simp [Instr.operand, Instr.opcode, Opcode.mbz])

theorem tldata (d : Byte) : Statement (.tldata d) := of_mbz (by
  apply BitVec.eq_of_getLsbD_eq
  intro k hk
  interval_cases k <;> simp [Instr.operand, Instr.opcode, Opcode.mbz])

theorem tlend : Statement .tlend := of_mbz (by decide)

theorem start : Statement .start := of_mbz (by decide)

theorem pix (s : Byte) (last : Bool) : Statement (.pix s last) := of_mbz (by
  apply BitVec.eq_of_getLsbD_eq
  intro k hk
  cases last <;> interval_cases k <;> simp [Instr.operand, Instr.opcode, Opcode.mbz])

theorem endStream : Statement .endStream := of_mbz (by decide)

theorem build : Statement .build := of_mbz (by decide)

theorem builda : Statement .builda := of_mbz (by decide)

end Sys2Proof.Laws.EncodingLayout
end

