-- ==== Sys2Proof/Laws/Pixel.lean ====
section
/-! SUPPORT. What the operations under PIX do, said once: the packer's arithmetic, a list of shares, and an accepted PIX
given its decision. -/

namespace Sys2Proof.Machine

theorem shiftIn_toNat (a : BitVec 8) (b : Bool) (h : a.toNat < 128) : (shiftIn a b).toNat = 2 * a.toNat + b.toNat := by
  revert a b; decide
theorem leftAlign_eq (a : BitVec 8) (n : Nat) : leftAlign a n = BitVec.ofNat 8 (a.toNat * 2 ^ (8 - n)) := by
  apply BitVec.eq_of_toNat_eq
  simp [leftAlign, Nat.shiftLeft_eq]

/-- An accepted PIX whose decision answers `q` with the accumulators of `t`: it completes, with the packing and the position
of `PixEffect`, and the accumulators are those of `t`, rotated at a row end (R131, R134, R135). -/
theorem execPix_of_decide {s t : State} {sample q : Byte} {last : Bool} (hi : CoreInv s) (ha : PixAccepted last s) (hd : ditherDecide sample s = .ok (q, t)) :
    ∃ u, exec (.pix sample last) s = .next u ∧ PixEffect s (isDark s.packLe q) last u ∧
      (last = false → u.acc0 = t.acc0 ∧ u.acc1 = t.acc1 ∧ u.acc2 = t.acc2) ∧
      (last = true → u.acc0 = (rotate t).acc0 ∧ u.acc1 = (rotate t).acc1 ∧ u.acc2 = (rotate t).acc2) ∧
      (∃ v : Byte, u.pbuf = if s.packN = 7 ∨ last = true then s.pbuf.write s.payloadLen.toNat v else s.pbuf) := by
  obtain ⟨hact, hlast, hroom⟩ := ha
  obtain ⟨hw1, hc, hpn, hpa⟩ := hi.stream hact
  have hwp := hi.width
  have hmax := hi.params.2.1
  have hpl := hi.payload
  have hsame := ditherDecide_sameButAcc hd
  unfold SameButAcc at hsame
  have hpn8 : s.packN.toNat < 8 := s.packN.isLt
  have hpa128 : s.packAcc.toNat < 128 := by
    have : 2 ^ s.packN.toNat ≤ 2 ^ 7 := Nat.pow_le_pow_right (by omega) (by omega)
    omega
  set bit := isDark s.packLe q with hbit
  have hcond : (s.packN.toNat + 1 = 8 ∨ last = true) ↔ (s.packN = 7 ∨ last = true) := by
    have : s.packN.toNat + 1 = 8 ↔ s.packN = 7 := by
      constructor
      · intro h; apply BitVec.eq_of_toNat_eq; show s.packN.toNat = 7; omega
      · intro h; rw [h]; rfl
    rw [this]
  have a1 : ¬(last = true ∧ s.col.toNat + 1 < s.w.toNat) := by rintro ⟨a, b⟩; have := hlast.mp a; omega
  have a2 : ¬(last = false ∧ s.col.toNat + 1 = s.w.toNat) := by rintro ⟨a, b⟩; have := hlast.mpr b; rw [a] at this; cases this
  have a3 : ¬((s.packN = 7 ∨ last = true) ∧ s.payloadLen.toNat = pbufBytes) := by rintro ⟨a, b⟩; have h := hroom a; rw [b] at h; exact absurd h (by decide)
  have hexec : ∀ u, pixDatapath sample last s = .ok u → exec (.pix sample last) s = .next { u with cmdCount := u.cmdCount + 1 } := by
    intro u hu
    simp only [exec, execPix, hact, a1, a2, a3, hu]
    rfl
  have hpackle : t.packLe = s.packLe := by rw [hsame]
  have hdp : ∀ v, pack bit last t = .ok v → pixDatapath sample last s = .ok (advance last v) := by
    intro v hv
    simp only [pixDatapath, hd, hpackle, ← hbit, hv]
  have hcol1 : (s.col + 1).toNat = s.col.toNat + 1 := by rw [BitVec.toNat_add]; simp; omega
  have hshift := shiftIn_toNat s.packAcc bit hpa128
  by_cases hb : s.packN = 7 ∨ last = true
  · have hroom' := hroom hb
    have hlen1 : (s.payloadLen + 1).toNat = s.payloadLen.toNat + 1 := by rw [BitVec.toNat_add]; simp; omega
    have hrow1 : (s.payloadRows + 1).toNat = s.payloadRows.toNat + 1 := by rw [BitVec.toNat_add]; simp; omega
    have hv := (pack_ok_iff (bit := bit) (last := last) (s := t)).mpr (.inl ⟨by rw [hsame]; exact hcond.mpr hb, by rw [hsame]; simpa [pbufBytes] using hroom', rfl⟩)
    have hu := hdp _ hv
    have he := hexec _ hu
    refine ⟨_, he, ⟨?_, ?_, ?_, ?_, ?_⟩, ?_, ?_, ?_⟩
    · intro _
      rw [hsame]
      cases last
      · simp only [advance]
        refine ⟨rfl, rfl, hlen1, ?_, ?_⟩
        · show (Memory.write _ _ _).read _ = _
          rw [Memory.read_write_same, leftAlign_eq, hshift]; rfl
        · intro k hk; exact Memory.read_write_other _ _ hk
      · simp only [advance, rowEnd, rotate, if_true]
        cases s.mode <;> (
          refine ⟨rfl, rfl, hlen1, ?_, ?_⟩
          · show (Memory.write _ _ _).read _ = _
            rw [Memory.read_write_same, leftAlign_eq, hshift]; rfl
          · intro k hk; exact Memory.read_write_other _ _ hk)
    · intro h; exact absurd hb h
    · rintro rfl; rw [hsame]
      simp only [advance, rowEnd, rotate, if_true]
      cases s.mode <;> exact ⟨by trivial, by trivial, hrow1⟩
    · rintro rfl; rw [hsame]; exact ⟨rfl, hcol1, rfl⟩
    · rw [hsame]; cases last
      · rfl
      · simp only [advance, rowEnd, rotate, if_true]
        cases s.mode <;> rfl
    · rintro rfl; rw [hsame]; exact ⟨rfl, rfl, rfl⟩
    · rintro rfl; rw [hsame]
      simp only [advance, rowEnd, rotate, if_true]
      cases s.mode <;> exact ⟨rfl, rfl, rfl⟩
    · refine ⟨leftAlign (shiftIn t.packAcc bit) (t.packN.toNat + 1), ?_⟩
      rw [if_pos hb, hsame]
      cases last
      · rfl
      · simp only [advance, rowEnd, rotate, if_true]
        cases s.mode <;> rfl
  · have hl : last = false := by cases last <;> simp at hb ⊢
    subst hl
    have hv := (pack_ok_iff (bit := bit) (last := false) (s := t)).mpr (.inr ⟨by rw [hsame]; exact fun h => hb (hcond.mp h), rfl⟩)
    have hu := hdp _ hv
    have he := hexec _ hu
    have hn7 : s.packN.toNat ≠ 7 := by
      intro h; apply hb; left; apply BitVec.eq_of_toNat_eq; exact h
    have hn1 : (s.packN + 1).toNat = s.packN.toNat + 1 := by rw [BitVec.toNat_add]; simp; omega
    refine ⟨_, he, ⟨?_, ?_, ?_, ?_, ?_⟩, ?_, ?_, ?_⟩
    · intro h; exact absurd h hb
    · intro _; rw [hsame]; exact ⟨hshift, hn1, rfl, rfl⟩
    · simp
    · intro _; rw [hsame]; exact ⟨rfl, hcol1, rfl⟩
    · rw [hsame]; rfl
    · intro _; rw [hsame]; exact ⟨rfl, rfl, rfl⟩
    · simp
    · refine ⟨0, ?_⟩; rw [if_neg hb, hsame]; rfl

theorem isDark_quantized (packLe light : Bool) : isDark packLe (quantized light) = !light := by
  cases packLe <;> cases light <;> rfl

/-- Outside FS and ATK a row end leaves the accumulators. -/
theorem rotate_eq_self {t : State} (h : t.mode = .bayer ∨ t.mode = .blue ∨ t.mode = .pass) : rotate t = t := by
  unfold rotate
  rcases h with h | h | h <;> rw [h]

/-- Every element of the accumulators is written and at most B in size. -/
def accGood (s : State) (B : Nat) : Prop := ∀ k x, x < s.params.maxWidth → ∃ b, (s.acc k).read x = some b ∧ b.toInt.natAbs ≤ B

/-- What a list of shares adds to one element. -/
def shareSum (k : AccName) (x : Nat) : List Share → Int
  | [] => 0
  | h :: r => (if h.acc = k ∧ h.column = x then h.amount else 0) + shareSum k x r

/-- The sizes of the shares, summed. -/
def absSum : List Share → Nat
  | [] => 0
  | h :: r => h.amount.natAbs + absSum r

theorem setAcc_acc (s : State) (m : Memory AccWord) (k k' : AccName) :
    (s.setAcc m k).acc k' = if k = k' then m else s.acc k' := by
  cases k <;> cases k' <;> rfl

/-- The accumulators are canonical and lie in their space. -/
def accShape (s : State) : Prop := ∀ k, (s.acc k).wf ∧ (s.acc k).Within s.params.maxWidth

theorem accValue_of_read {m : Memory AccWord} {x b} (h : m.read x = some b) : accValue m x = b.toInt := by simp [accValue, h]
/-- Shares that cannot overflow 16 bits: all of them are added, to the elements they name and to no other (R151). -/
theorem applyShares_ok (l : List Share) (s : State) (B : Nat) (hg : accGood s B) (hsh : accShape s) (hc : ∀ h ∈ l, h.column < s.params.maxWidth) (hB : B + absSum l ≤ 32767) :
   ∃ t, applyShares l s = .ok t ∧ accGood t (B + absSum l) ∧ accShape t ∧ t.params = s.params ∧ ∀ k x, x < s.params.maxWidth → accHolds (t.acc k) x (accValue (s.acc k) x + shareSum k x l) := by
  induction l generalizing s B with
  | nil =>
    refine ⟨s, rfl, by simpa [absSum] using hg, hsh, rfl, ?_⟩
    intro k x hx; obtain ⟨b, h1, h2⟩ := hg k x hx
    exact ⟨b, h1, by simp [accValue_of_read h1, shareSum]⟩
  | cons h l ih =>
    have hcol := hc h (by simp)
    obtain ⟨b, h1, h2⟩ := hg h.acc h.column hcol
    simp only [absSum] at hB
    have hval : (BitVec.ofInt 16 (b.toInt + h.amount)).toInt = b.toInt + h.amount := by
      rw [BitVec.toInt_ofInt]; unfold Int.bmod; norm_num; omega
    let s1 := s.setAcc ((s.acc h.acc).write h.column (BitVec.ofInt 16 (b.toInt + h.amount))) h.acc
    have hs1 : accAdd h.acc h.column h.amount s = .ok s1 := accAdd_ok_iff.mpr ⟨hcol, b, h1, rfl⟩
    have hp : s1.params = s.params := setAcc_params ..
    have hread : ∀ k x, (s1.acc k).read x = if h.acc = k ∧ h.column = x then some (BitVec.ofInt 16 (b.toInt + h.amount)) else (s.acc k).read x := by
      intro k x
      simp only [s1, setAcc_acc]
      by_cases hk : h.acc = k
      · subst hk; simp only [if_true, true_and, Memory.read_write]
        by_cases hx : x = h.column
        · subst hx; simp
        · simp [hx, Ne.symm hx]
      · simp [hk]
    have hg1 : accGood s1 (B + h.amount.natAbs) := by
      intro k x hx
      rw [hp] at hx
      rw [hread]
      by_cases hkx : h.acc = k ∧ h.column = x
      · rw [if_pos hkx]; exact ⟨_, rfl, by rw [hval]; omega⟩
      · rw [if_neg hkx]; obtain ⟨b', h3, h4⟩ := hg k x hx; exact ⟨b', h3, by omega⟩
    have hsh1 : accShape s1 := by
      intro k
      rw [hp]
      simp only [s1, setAcc_acc]
      by_cases hk : h.acc = k
      · subst hk; simp only [if_true]; exact ⟨Memory.write_wf (hsh _).1 _ _, Memory.write_within (hsh _).2 hcol _⟩
      · rw [if_neg hk]; exact hsh k
    obtain ⟨t, ht, hg2, hsh2, hp2, hv⟩ := ih s1 (B + h.amount.natAbs) hg1 hsh1 (by intro h' hh; rw [hp]; exact hc h' (by simp [hh])) (by omega)
    refine ⟨t, by simp only [applyShares, hs1]; exact ht, by simp only [absSum]; convert hg2 using 1; omega, hsh2, by rw [hp2, hp], ?_⟩
    intro k x hx
    obtain ⟨b', h5, h6⟩ := hv k x (by rw [hp]; exact hx)
    refine ⟨b', h5, ?_⟩
    rw [h6]
    simp only [shareSum]
    have : accValue (s1.acc k) x = accValue (s.acc k) x + (if h.acc = k ∧ h.column = x then h.amount else 0) := by
      unfold accValue
      rw [hread]
      by_cases hkx : h.acc = k ∧ h.column = x
      · rw [if_pos hkx, if_pos hkx]; obtain ⟨rfl, rfl⟩ := hkx; simp [h1, hval]
      · rw [if_neg hkx, if_neg hkx]; simp
    rw [this]; omega

end Sys2Proof.Machine
end

