-- ==== Sys2Proof/Tests/Slice0.lean ====
section
/-! SUPPORT. The model's own tests. Expected values are those of spec/ (the rule or the vector of 95_test_vectors.md is
named at each test), never the model's own answers. The theorems named witness_… show, for each obligation with
hypotheses, a concrete state and operands that meet them, at the boundary values of each clause. -/

namespace Sys2Proof.Tests

open Sys2Proof Sys2Proof.Machine

/-! ## Helpers -/

/-- The next state of an outcome, if there is one. -/
def next? : StepOutcome → Option State
  | .next t => some t
  | .fault _ => none
  | .refused _ => none

/-- A CSR after a command. -/
def csrAfter (i : Instr) (s : State) (k : BitVec 8) : Option Nat := (next? (exec i s)).map fun t => (csrRead t k).toNat

/-- Small parameters, so that a test's arrays are short. -/
def small : Params := { maxWidth := 16, tileMaxSide := 2, bayerRom := defaultBayerRom }

/-- The state after reset of a core with small parameters. -/
def idle : State := { State.reset with params := small }

/-- An open stream of rows of two samples in a mode, with a tile of one entry, 0x80, at column 0. -/
def stream (m : Mode) : State :=
  { idle with
    w := 2, mode := m, active := true, acc0 := zeroAcc small, acc1 := zeroAcc small, acc2 := zeroAcc small
    tileValid := true, tileSide := 1, tileCount := 1, tlut := [(0, 0x80)] }

/-- The same stream at the last column of its row, one dark bit held. -/
def atLast (m : Mode) : State := { stream m with col := 1, packN := 1, packAcc := 1 }

/-- A stream of rows of sixteen samples at column 7, seven light bits held: the next bit completes a byte. -/
def atSeven (m : Mode) : State := { stream m with w := 16, col := 7, packN := 7 }

/-- A tile load of side 2 with `n` bytes in. -/
def loading (n : Nat) : State :=
  { idle with
    tileLoading := true, tileSide := 2, tileCount := BitVec.ofNat 32 n
    tlut := (List.range n).map fun k => (k, BitVec.ofNat 8 (10 * k)) }

/-- Two packed rows of one byte, waiting to be framed. -/
def buffered : State :=
  { idle with w := 8, pbuf := [(0, 0xAA), (1, 0x55)], payloadLen := 2, payloadRows := 2 }

/-! ## WellFormed refuses what R79 check 4 refuses -/

theorem test_setw_zero_is_ill_formed : (Instr.setw 0).wellFormed Params.default = false := by decide
theorem test_setw_above_maximum_is_ill_formed : (Instr.setw 385).wellFormed Params.default = false := by decide
theorem test_setw_bounds_are_well_formed :
    (Instr.setw 1).wellFormed Params.default = true ∧ (Instr.setw 384).wellFormed Params.default = true := by decide
theorem test_setmode_5_6_7_are_ill_formed :
    ((Instr.setmode 5).wellFormed small || (Instr.setmode 6).wellFormed small || (Instr.setmode 7).wellFormed small) =
      false := by decide

/-! ## Decoding: words put together from the fields of R78, R80 and R81 -/

theorem test_decode_nop : decode (0b00000000#8 ++ 0#24 ++ 0#32) = .ok .nop := by decide
theorem test_decode_srst : decode (0b00000001#8 ++ 0#24 ++ 0#32) = .ok .srst := by decide
theorem test_decode_setw : decode (0b00010000#8 ++ 0#24 ++ (0#16 ++ 0b0000000110000000#16)) = .ok (.setw 384) := by decide
theorem test_decode_setmode : decode (0b00010001#8 ++ 0#24 ++ (0#29 ++ 0b011#3)) = .ok (.setmode 3) := by decide
theorem test_decode_setcmp_bit_0_is_atk_ge :
    decode (0b00010010#8 ++ 0#24 ++ (0#30 ++ 0b01#2)) = .ok (.setcmp true false) ∧
      decode (0b00010010#8 ++ 0#24 ++ (0#30 ++ 0b10#2)) = .ok (.setcmp false true) := by decide
theorem test_decode_setfw : decode (0b00010011#8 ++ 0#24 ++ 0x80000001#32) = .ok (.setfw 0x80000001) := by decide
theorem test_decode_setfh : decode (0b00010100#8 ++ 0#24 ++ 0x00010000#32) = .ok (.setfh 65536) := by decide
theorem test_decode_tlbegin : decode (0b00100000#8 ++ 0#24 ++ (0#16 ++ 0x8001#16)) = .ok (.tlbegin 0x8001) := by decide
theorem test_decode_tldata : decode (0b00100001#8 ++ 0#24 ++ (0#24 ++ 0xC8#8)) = .ok (.tldata 200) := by decide
theorem test_decode_tlend : decode (0b00100010#8 ++ 0#24 ++ 0#32) = .ok .tlend := by decide
theorem test_decode_start : decode (0b00110000#8 ++ 0#24 ++ 0#32) = .ok .start := by decide
theorem test_decode_pix_bit_8_is_last :
    decode (0b00110001#8 ++ 0#24 ++ (0#23 ++ 0b0#1 ++ 0x81#8)) = .ok (.pix 0x81 false) ∧
      decode (0b00110001#8 ++ 0#24 ++ (0#23 ++ 0b1#1 ++ 0x81#8)) = .ok (.pix 0x81 true) := by decide
theorem test_decode_end : decode (0b00110010#8 ++ 0#24 ++ 0#32) = .ok .endStream := by decide
theorem test_decode_build : decode (0b01000000#8 ++ 0#24 ++ 0#32) = .ok .build := by decide
theorem test_decode_builda : decode (0b01000001#8 ++ 0#24 ++ 0#32) = .ok .builda := by decide

/-- DE1 to DE8, DE13: each check of R79 by name, in its order. -/
theorem test_decode_checks :
    decode 0x0200000000000000 = .error .unknownOpcode ∧ decode 0xFFFFFFFFFFFFFFFF = .error .unknownOpcode ∧
      decode 0x0200000000000001 = .error .unknownOpcode ∧ decode 0x0000000100000000 = .error .reservedBits ∧
      decode 0x4100000100000000 = .error .reservedBits ∧ decode 0x0000000000000001 = .error .operandBits ∧
      decode 0x1000000000010001 = .error .operandBits ∧ decode 0x3100000000000200 = .error .operandBits ∧
      decode 0x1200000000000004 = .error .operandBits := by decide

theorem test_table_word_is_the_command_word : decodeTableWord 64 0x31000000000001FF = some (.pix 255 true) := by decide
theorem test_fetched_word_runs : next? (step (State.reset.withFetchWord 64 0x1000000000000180)) =
    some { State.reset with w := 384, cmdCount := 1 } := by decide

/-! ## One step per command -/

/-- CT1. -/
theorem test_nop_counts : csrAfter .nop State.reset 0x03 = some 1 := by decide
/-- CT13. -/
theorem test_srst_restores_config_and_count :
    csrAfter .srst { State.reset with w := 4, mode := .atk, cmdCount := 2 } 0x04 = some 0x03000000 ∧
      csrAfter .srst { State.reset with w := 4, mode := .atk, cmdCount := 2 } 0x03 = some 0 := by decide
/-- CT3. -/
theorem test_setw_384 : csrAfter (.setw 384) State.reset 0x04 = some 0x03000180 := by decide
/-- DE10. -/
theorem test_setw_385_is_illegal : csrAfter (.setw 385) State.reset 0x01 = some 0x041006 := by decide
/-- CT5. -/
theorem test_setmode_pass : csrAfter (.setmode 4) State.reset 0x04 = some 0x03040000 := by decide
/-- DE12. -/
theorem test_setmode_7_is_illegal : csrAfter (.setmode 7) State.reset 0x01 = some 0x041106 := by decide
/-- CT8: SETCMP 1 is atk_ge = 1, pack_le = 0. -/
theorem test_setcmp_1 :
    csrAfter (.setcmp true false) { State.reset with w := 9, mode := .pass } 0x04 = some 0x01040009 := by decide
/-- CT11. -/
theorem test_setcmp_in_stream : csrAfter (.setcmp true true) (stream .bayer) 0x01 = some 0x011202 := by decide
/-- The example of R172. -/
theorem test_setfw_minus_one : csrAfter (.setfw (-1)) State.reset 0x05 = some 0xFFFFFFFF := by decide
/-- The example of R173. -/
theorem test_setfh_65536 : csrAfter (.setfh 65536) State.reset 0x06 = some 65536 := by decide
/-- T1. -/
theorem test_tlbegin_2 :
    csrAfter (.tlbegin 2) State.reset 0x00 = some 0x8 ∧ csrAfter (.tlbegin 2) State.reset 0x07 = some 2 := by decide
/-- T6. -/
theorem test_tlbegin_65 : csrAfter (.tlbegin 65) State.reset 0x01 = some 0x022001 := by decide
/-- R118: entry TILE_COUNT is written and counted. -/
theorem test_tldata_appends :
    (next? (exec (.tldata 0x3C) (loading 3))).map (fun t => (t.tlut.read 3, t.tileCount)) = some (some 0x3C, 4) := by decide
/-- T11. -/
theorem test_tldata_too_many : csrAfter (.tldata 2) (loading 4) 0x01 = some 0x042101 := by decide
/-- T2. -/
theorem test_tlend_full : csrAfter .tlend (loading 4) 0x00 = some 0x4 := by decide
/-- T12. -/
theorem test_tlend_short : csrAfter .tlend (loading 1) 0x01 = some 0x052201 := by decide
/-- ST1. -/
theorem test_start : csrAfter .start { idle with w := 16 } 0x00 = some 0x2 := by decide
/-- T13. -/
theorem test_start_blue_without_tile : csrAfter .start { idle with w := 2, mode := .blue } 0x01 = some 0x063001 := by
  decide
/-- V2, column 1: total −20, error −2, so column 2 of ACC0 gains −14, columns 0, 1 and 2 of ACC1 −6, −10 and −2. -/
theorem test_pix_floyd_steinberg_floors :
    (next? (exec (.pix 0x40 false)
      { stream .fs with w := 16, col := 1, packN := 1, acc0 := (zeroAcc small).write 1 (BitVec.ofInt 16 (-84)) })).map
      (fun t => [accValue t.acc0 2, accValue t.acc1 0, accValue t.acc1 1, accValue t.acc1 2]) =
      some [-14, -6, -10, -2] := by decide
/-- V3, column 0: error −24 to columns 1 and 2 of ACC0, 0 and 1 of ACC1, 0 of ACC2; the bit is light. -/
theorem test_pix_atkinson_first_column :
    (next? (exec (.pix 0x3F false) { stream .atk with w := 8 })).map
      (fun t => ([accValue t.acc0 1, accValue t.acc0 2, accValue t.acc1 0, accValue t.acc1 1, accValue t.acc2 0],
        t.packAcc)) = some ([-24, -24, -24, -24, -24], 0) := by decide
/-- ST11. -/
theorem test_end_closes : csrAfter .endStream { stream .bayer with tileValid := false, row := 1 } 0x00 = some 0 := by decide
/-- ST10. -/
theorem test_end_mid_row : csrAfter .endStream (atLast .bayer) 0x01 = some 0x073202 := by decide
/-- The example of R179: w = 0x1234, h = 0. -/
theorem test_build_empty_frame :
    (next? (exec .build { State.reset with frameW := 0x1234 })).map (·.out) =
      some [0x1D, 0x76, 0x30, 0x00, 0x34, 0x12, 0x00, 0x00] := by decide
/-- V5: the capacity is checked before the size. -/
theorem test_build_64_65 :
    csrAfter .build { State.reset with frameW := 64, frameH := 65, payloadLen := 1 } 0x01 = some 0x004004 := by decide
/-- The example of R177. -/
theorem test_builda_two_rows :
    (next? (exec .builda buffered)).map (·.out) =
      some [0x1D, 0x76, 0x30, 0x00, 0x01, 0x00, 0x02, 0x00, 0xAA, 0x55] := by decide
/-- FR16: the width changed under the buffered rows. -/
theorem test_builda_wrong_shape : csrAfter .builda { buffered with w := 16 } 0x01 = some 0x004103 := by decide

/-! ## Operand forms, comparators and kernels -/

/-- The worked values of R13. -/
theorem test_floor_div : floorDiv (-191) 16 = -12 ∧ floorDiv (-20) 16 = -2 ∧ floorDiv (-192) 8 = -24 := by decide
/-- R146. -/
theorem test_ordered_boundaries :
    bayerQuantize 0 0 = 0xFF ∧ bayerQuantize 127 128 = 0 ∧ bayerQuantize 128 128 = 0xFF ∧ bayerQuantize 251 252 = 0 ∧
      bayerQuantize 252 252 = 0xFF ∧ blueQuantize 0 0 = 0 ∧ blueQuantize 1 0 = 0xFF ∧ blueQuantize 128 128 = 0 ∧
      blueQuantize 129 128 = 0xFF ∧ blueQuantize 255 255 = 0 := by decide
/-- R152 and R155: the strict and the two Atkinson comparators at 63. -/
theorem test_diffusion_boundaries :
    fsQuantize 63 = 0 ∧ fsQuantize 64 = 0xFF ∧ atkQuantize true 63 = 0xFF ∧ atkQuantize true 62 = 0 ∧
      atkQuantize false 63 = 0 ∧ atkQuantize false 64 = 0xFF := by decide
/-- R161, row W = 2, both columns, with e = 1. -/
theorem test_shares_width_2 :
    fsShares 2 0 1 = [⟨.acc0, 1, 7⟩, ⟨.acc1, 1, 1⟩, ⟨.acc1, 0, 5⟩] ∧ fsShares 2 1 1 = [⟨.acc1, 0, 3⟩, ⟨.acc1, 1, 5⟩] ∧
      atkShares 2 0 1 = [⟨.acc0, 1, 1⟩, ⟨.acc1, 0, 1⟩, ⟨.acc1, 1, 1⟩, ⟨.acc2, 0, 1⟩] ∧
      atkShares 2 1 1 = [⟨.acc1, 0, 1⟩, ⟨.acc1, 1, 1⟩, ⟨.acc2, 1, 1⟩] := by decide
/-- R157: how many shares each column of a wide row propagates. -/
theorem test_atkinson_share_counts :
    [(3, 0), (5, 1), (5, 3), (5, 4), (2, 0), (1, 0)].map (fun p => (atkShares p.1 p.2 1).length) = [5, 6, 5, 3, 4, 2] := by
  decide
/-- R164. -/
theorem test_is_dark : isDark true 0x3F = true ∧ isDark false 0x3F = false ∧ isDark true 0x40 = false ∧
    isDark false 0x3E = true := by decide
/-- S2: the packed row and its inverse. -/
theorem test_packed_row :
    packedRow [true, false, true, true, false, false, true, true, true, false] = [0xB3, 0x80] ∧
      unpackRow [0xB3, 0x80] 10 = [true, false, true, true, false, false, true, true, true, false] := by decide
/-- ST13: PACKER 0x516 holds five bits, 10110, and their number. -/
theorem test_packer_csr : (State.packerBits { State.reset with packN := 5, packAcc := 0b10110 }).toNat = 0x516 := by decide
/-- S3: five rows in batches of two. -/
theorem test_batch : batch [1, 2, 3, 4, 5] 2 = some [[1, 2], [3, 4], [5]] := by decide
/-- R85, R86: a line with a comment, a pseudo-instruction, and values that do not fit. -/
theorem test_assembler :
    assembleLine small "SETMODE FS ; Floyd".toList = some [.setmode 2] ∧
      assembleLine small "ROWPIX 0x00, 255".toList = some [.pix 0 false, .pix 255 true] ∧
      assembleLine small "SETFW -1".toList = some [.setfw (-1)] ∧ assembleLine small "PIX 256".toList = none ∧
      assembleLine small "SETW 0".toList = none := by decide

/-! ## Concrete states that meet the invariant -/

theorem test_reset_memories_are_canonical :
    State.reset.tlut.wf ∧ State.reset.acc0.wf ∧ State.reset.acc1.wf ∧ State.reset.acc2.wf ∧ State.reset.pbuf.wf := by decide
theorem test_idle_inv : CoreInv idle := by constructor <;> decide
theorem test_stream_inv (m : Mode) : CoreInv (stream m) := by cases m <;> constructor <;> decide
theorem test_atLast_inv (m : Mode) : CoreInv (atLast m) := by cases m <;> constructor <;> decide
theorem test_atSeven_inv (m : Mode) : CoreInv (atSeven m) := by cases m <;> constructor <;> decide
theorem test_loading_inv : CoreInv (loading 0) ∧ CoreInv (loading 3) := by constructor <;> constructor <;> decide
theorem test_buffered_inv : CoreInv buffered := by constructor <;> decide

/-! ## Witnesses: the hypotheses of each obligation, met -/

theorem witness_EncodeInvertsDecode : decode 0x100000000000FFFF = .ok (.setw 0xFFFF) := by decide
theorem witness_WordIsCommandExactlyOnMaskMatch :
    (Opcode.setw, 0xFFFFFFFFFFFF0000#64, 0x1000000000000000#64) ∈ maskTable ∧
      (Opcode.setmode, 0xFFFFFFFFFFFFFFF8#64, 0x1100000000000000#64) ∈ maskTable ∧ maskTable.length = 15 := by decide
theorem witness_DecodeChecksRaiseInOrder :
    (∀ row ∈ maskTable, row.2.2.extractLsb' 56 8 ≠ (0x0200000000000001 : CommandWord).extractLsb' 56 8) ∧
      (0x4100000100000000 : CommandWord).extractLsb' 32 24 ≠ 0 ∧
      ((0x1200000000000004 : CommandWord) &&& 0xFFFFFFFFFFFFFFFC).extractLsb' 0 32 ≠ 0 ∧
      small.maxWidth < ((0x1000000000000011 : CommandWord).extractLsb' 0 16).toNat ∧
      4 < ((0x1100000000000005 : CommandWord).extractLsb' 0 3).toNat := by decide
theorem witness_AssemblerNeverTruncates :
    assembleForm small "SETW" [16] = some [.setw 16] ∧ assembleForm small "SETMODE" [4] = some [.setmode 4] ∧
      assembleForm small "SETCMP" [0, 1] = some [.setcmp false true] ∧
      assembleForm small "SETFW" [-2147483648] = some [.setfw 0x80000000] ∧
      assembleForm small "SETFH" [2147483647] = some [.setfh 0x7FFFFFFF] ∧
      assembleForm small "TLBEGIN" [2] = some [.tlbegin 2] ∧ assembleForm small "TLDATA" [255] = some [.tldata 255] ∧
      assembleForm small "PIX" [0] = some [.pix 0 false] ∧ assembleForm small "PIXL" [255] = some [.pix 255 true] ∧
      assembleForm small "SETFRAME" [-1, 3] = some [.setfw 0xFFFFFFFF, .setfh 3] ∧
      assembleForm small "ROWPIX" [0, 255] = some [.pix 0 false, .pix 255 true] ∧
      assembleForm small "TLOAD" [1, 255] = some [.tlbegin 1, .tldata 255, .tlend] := by decide
/-- R85: one more than each field or range holds is refused, not truncated. -/
theorem test_assembler_refuses :
    assembleForm small "SETW" [65537] = none ∧ assembleForm small "SETMODE" [9] = none ∧
      assembleForm small "SETCMP" [2, 0] = none ∧ assembleForm small "SETFH" [2147483648] = none ∧
      assembleForm small "TLBEGIN" [65537] = none ∧ assembleForm small "PIXL" [256] = none ∧
      assembleForm small "SETFRAME" [1, 4294967297] = none ∧ assembleForm small "ROWPIX" [0, 256] = none ∧
      assembleForm small "TLOAD" [1, 256] = none := by decide
theorem witness_PseudoInstructionsExpand :
    [(0 : Byte)] ≠ [] ∧ 1 ≤ (2 : BitVec 16).toNat ∧ (2 : BitVec 16).toNat ≤ small.tileMaxSide ∧
      [(1 : Byte), 2, 3, 4].length = (2 : BitVec 16).toNat * (2 : BitVec 16).toNat := by decide
theorem witness_StepRunsDecodedCommand :
    State.input { idle with input := [.command 0x1000000000000010] } = .command 0x1000000000000010 :: [] ∧
      idle.fault = false ∧ idle.transportReady = true ∧ decode 0x1000000000000010 = .ok (.setw 16) := by decide
theorem witness_BlockedTransportHoldsTheCore :
    decode 0x4000000000000000 = .ok .build ∧ decode 0 = .ok .nop ∧
      (next? (exec .build { idle with transportReady := false })).any (fun t => decide (t.out ≠ idle.out)) = true ∧
      (next? (exec .nop { idle with transportReady := false })).any (fun t => decide (t.out = idle.out)) = true := by decide
theorem witness_FaultedCoreAcceptsSrstOnly :
    State.fault { idle with fault := true, input := [.command 0x0100000000000001] } = true ∧
      (0x0100000000000001 : CommandWord) ≠ 0x0100000000000000 ∧
      State.input { idle with fault := true, input := [.command 0x0100000000000000, .hardReset] } =
        .command 0x0100000000000000 :: [.hardReset] := by decide
theorem witness_EmptyChannelHoldsState : State.reset.input = [] := by decide
theorem witness_ResetsGiveResetValues : State.input { stream .fs with input := [.hardReset] } = .hardReset :: [] := by
  decide
theorem witness_ResetDuringCommandKeepsEmittedPart :
    ∀ n ∈ [0, 4, 8, 9],
      State.input { idle with input := [.resetDuring 0x4000000000000000 n] } = .resetDuring 0x4000000000000000 n :: [] ∧
        (next? (runWord 0x4000000000000000 idle)).isSome = true := by decide
theorem witness_WordDuringResetIsRefused :
    State.input { idle with input := [.wordDuringReset 0] } = .wordDuringReset 0 :: [] := by decide
theorem witness_SetwWritesWidth :
    (1 ≤ (1 : BitVec 16).toNat ∧ (1 : BitVec 16).toNat ≤ small.maxWidth) ∧
      (1 ≤ (16 : BitVec 16).toNat ∧ (16 : BitVec 16).toNat ≤ small.maxWidth) ∧ idle.active = false := by decide
theorem witness_SetmodeWritesMode :
    (4, Mode.pass) ∈ [((0 : BitVec 3), Mode.bayer), (1, .blue), (2, .fs), (3, .atk), (4, .pass)] ∧ idle.active = false := by
  decide
theorem witness_SetcmpWritesComparators : idle.active = false := by decide
theorem witness_ConfigurationCommandsFaultInOrder :
    (0 : BitVec 16).toNat = 0 ∧ small.maxWidth < (17 : BitVec 16).toNat ∧ 4 < (5 : BitVec 3).toNat ∧
      (stream .bayer).active = true ∧ (16 : BitVec 16).toNat ≤ small.maxWidth ∧ (4 : BitVec 3).toNat ≤ 4 := by decide
theorem witness_TlbeginOpensLoad :
    idle.tileValid = false ∧ idle.tileLoading = false ∧ 1 ≤ (1 : BitVec 16).toNat ∧
      (2 : BitVec 16).toNat ≤ idle.params.tileMaxSide := by decide
theorem witness_TldataWritesNextElement :
    CoreInv (loading 3) ∧ (loading 3).tileLoading = true ∧
      (loading 3).tileCount.toNat < (loading 3).tileSide.toNat * (loading 3).tileSide.toNat :=
  ⟨test_loading_inv.2, by decide, by decide⟩
theorem witness_TlendMakesTileValid :
    (loading 4).tileLoading = true ∧
      (loading 4).tileCount.toNat = (loading 4).tileSide.toNat * (loading 4).tileSide.toNat := by decide
theorem witness_TileCommandsFaultInOrder :
    (stream .bayer).tileValid = true ∧ (loading 0).tileLoading = true ∧ (0 : BitVec 16).toNat = 0 ∧
      idle.params.tileMaxSide < (3 : BitVec 16).toNat ∧ idle.tileLoading = false ∧ idle.tileValid = false ∧
      (loading 4).tileCount.toNat = (loading 4).tileSide.toNat * (loading 4).tileSide.toNat ∧
      (loading 3).tileCount.toNat ≠ (loading 3).tileSide.toNat * (loading 3).tileSide.toNat := by decide
/-- EMPTY, LOADING (one byte short, then full) and VALID, each before a command that is no reset, and VALID before one. -/
theorem witness_TileIsWrittenOnce :
    CoreInv { idle with input := [.command 0x2000000000000002] } ∧
      CoreInv { loading 3 with input := [.command 0x2100000000000005] } ∧
      CoreInv { loading 4 with input := [.command 0x2200000000000000] } ∧
      CoreInv { stream .blue with input := [.command 0x2000000000000001] } := by
  refine ⟨?_, ?_, ?_, ?_⟩ <;> constructor <;> decide
theorem witness_TileIsWrittenOnce_steps :
    (next? (step { idle with input := [.command 0x2000000000000002] })).map (fun t => (t.tileLoading, t.tileSide)) =
        some (true, 2) ∧
      (next? (step { loading 3 with input := [.command 0x2100000000000005] })).map (fun t => (t.tileLoading, t.tileCount)) =
        some (true, 4) ∧
      (next? (step { loading 4 with input := [.command 0x2200000000000000] })).map (fun t => (t.tileLoading, t.tileValid)) =
        some (false, true) ∧
      (next? (step { stream .blue with input := [.command 0x2000000000000001] })).map
        (fun t => (t.fault, t.tileLoading, t.tileValid)) = some (true, false, true) := by decide
theorem witness_TileIsWrittenOnce_resets :
    ¬TakesReset { loading 3 with input := [.command 0x2100000000000005] } ∧
      TakesReset { stream .blue with input := [.hardReset] } ∧
      (next? (step { stream .blue with input := [.hardReset] })).map (·.tileValid) = some false :=
  ⟨by rintro ⟨rest, h | h | ⟨w, n, h⟩⟩ <;> simp at h, ⟨[], .inr (.inl rfl)⟩, by decide⟩
theorem witness_LoaderFillsTileRowMajor :
    idle.tileValid = false ∧ idle.tileLoading = false ∧
      loaderCommands [[10, 200], [128, 60]] =
        some [.tlbegin 2, .tldata 10, .tldata 200, .tldata 128, .tldata 60, .tlend] ∧
      1 ≤ [[(10 : Byte), 200], [128, 60]].length ∧ [[(10 : Byte), 200], [128, 60]].length ≤ idle.params.tileMaxSide := by
  decide
theorem witness_StartOpensZeroedStream :
    State.active { stream .blue with active := false } = false ∧ (stream .blue).w ≠ 0 ∧
      (stream .blue).tileValid = true := by decide
/-- For PixBayerResult, PixBlueResult, PixPassResult, PixFloydSteinbergResult and PixAtkinsonResult: the first column, the
last column of a row of two, and a byte completed inside a row. -/
theorem witness_PixResults :
    ∀ m, CoreInv (stream m) ∧ CoreInv (atLast m) ∧ CoreInv (atSeven m) ∧ PixAccepted false (stream m) ∧
      PixAccepted true (atLast m) ∧ PixAccepted false (atSeven m) := fun m =>
  ⟨test_stream_inv m, test_atLast_inv m, test_atSeven_inv m, by cases m <;> decide, by cases m <;> decide,
    by cases m <;> decide⟩
theorem witness_PixFaultsInOrder :
    idle.active = false ∧ (stream .bayer).active = true ∧
      (stream .bayer).col.toNat + 1 < (stream .bayer).w.toNat ∧
      (atLast .bayer).col.toNat + 1 = (atLast .bayer).w.toNat ∧
      (true = true ↔ (atLast .bayer).col.toNat + 1 = (atLast .bayer).w.toNat) ∧
      (false = true ↔ (atSeven .bayer).col.toNat + 1 = (atSeven .bayer).w.toNat) ∧ (atSeven .bayer).packN = 7 ∧
      (State.payloadLen { atSeven .bayer with payloadLen := 4096 }).toNat = 4096 := by decide
theorem witness_EndClosesStream : (stream .bayer).active = true ∧ (stream .bayer).col = 0 := by decide
theorem witness_StartAndEndFaultInOrder :
    (stream .bayer).active = true ∧ idle.active = false ∧ idle.w = 0 ∧
      State.mode { idle with w := 1, mode := .blue } = .blue ∧ (atLast .bayer).col ≠ 0 := by decide
theorem witness_RowOfPixelsAppendsPackedRow :
    ∀ m, CoreInv (stream m) ∧ (stream m).active = true ∧ (stream m).col = 0 ∧
      [(0 : Byte), 255].length = (stream m).w.toNat ∧ (stream m).payloadLen.toNat + ((stream m).w.toNat + 7) / 8 ≤ 4096 :=
  fun m => ⟨test_stream_inv m, by cases m <;> decide, by cases m <;> decide, by cases m <;> decide, by cases m <;> decide⟩
theorem witness_BuildEmitsFrame :
    CoreInv { buffered with frameW := 1, frameH := 2 } ∧ buffered.col = 0 ∧ (1 : BitVec 32).toInt = (1 : Nat) ∧
      (2 : BitVec 32).toInt = (2 : Nat) ∧ 1 * 2 = buffered.payloadLen.toNat :=
  ⟨by constructor <;> decide, by decide, by decide, by decide, by decide⟩
/-- For BuildEmitsFrame at the widest shape. -/
theorem witness_BuildEmitsEmptyFrame :
    CoreInv { idle with frameW := 65535 } ∧ (65535 : BitVec 32).toInt = (65535 : Nat) ∧
      65535 * 0 = idle.payloadLen.toNat :=
  ⟨by constructor <;> decide, by decide, by decide⟩
theorem witness_BuildaEmitsFrame :
    CoreInv buffered ∧ buffered.col = 0 ∧ 1 = (buffered.w.toNat + 7) / 8 ∧ 2 = buffered.payloadRows.toNat ∧
      1 * 2 = buffered.payloadLen.toNat :=
  ⟨test_buffered_inv, by decide, by decide, by decide, by decide⟩
theorem witness_BuildFaultsInOrder :
    (atLast .bayer).col ≠ 0 ∧ idle.col = 0 ∧ (-1 : BitVec 32).toInt < 0 ∧ (65536 : BitVec 32).toInt > 65535 ∧
      (0 : BitVec 32).toInt ≤ 65535 ∧ (64 : BitVec 32).toInt * (65 : BitVec 32).toInt > 4096 ∧
      (64 : BitVec 32).toInt * (64 : BitVec 32).toInt ≤ 4096 ∧
      (64 : BitVec 32).toInt * (64 : BitVec 32).toInt ≠ buffered.payloadLen.toNat := by decide
theorem witness_BuildaFaultsInOrder :
    (atLast .bayer).col ≠ 0 ∧ buffered.col = 0 ∧
      ((State.w { buffered with w := 384, payloadRows := 86 }).toNat + 7) / 8 * (86 : BitVec 13).toNat > 4096 ∧
      ((State.w { buffered with w := 16 }).toNat + 7) / 8 * buffered.payloadRows.toNat ≤ 4096 ∧
      ((State.w { buffered with w := 16 }).toNat + 7) / 8 * buffered.payloadRows.toNat ≠ buffered.payloadLen.toNat := by
  decide
theorem witness_BatcherGroupsInOrder : 1 ≤ 2 := by decide
theorem witness_FaultsArePrecise :
    (next? (step { idle with input := [.command 0x3100000000000000] })).map (fun t => (t.fault, t.errInfo)) =
      some (true, 4) := by decide
theorem witness_CommandCountAdvancesByOne :
    (next? (step { idle with cmdCount := 0xFFFFFFFF, input := [.command 0] })).map (·.cmdCount) = some 0 ∧
      (next? (step { idle with cmdCount := 7, input := [.command 0x0100000000000000] })).map (·.cmdCount) = some 0 ∧
      (next? (step { idle with fault := true, cmdCount := 7, input := [.command 0] })).map (·.cmdCount) = some 7 ∧
      (next? (step { idle with cmdCount := 7, input := [.hardReset] })).map (·.cmdCount) = some 0 := by decide
theorem witness_OnlyResetsLeaveFault :
    (next? (step { idle with fault := true, input := [.command 0x0100000000000000] })).map (·.fault) = some false ∧
      (next? (step { idle with fault := true, input := [.hardReset] })).map (·.fault) = some false := by decide
theorem witness_OutputOnlyGrowsByFrames :
    (next? (step { idle with input := [.command 0x4000000000000000] })).map (·.out.length) = some 8 ∧
      (next? (step { idle with input := [.resetDuring 0x4100000000000000 3] })).map (·.out.length) = some 3 := by decide
theorem witness_ConfigurationConstantInStream :
    (stream .bayer).active = true ∧
      (next? (step { stream .bayer with input := [.command 0x3100000000000000] })).map (·.active) = some true := by decide
theorem witness_StepKeepsParameters :
    (next? (step { idle with input := [.hardReset] })).isSome = true := by decide
theorem witness_PositionPayloadParamsLayout :
    Params.Legal { small with maxWidth := 32768, tileMaxSide := 65535 } ∧ Params.Legal { small with maxWidth := 1, tileMaxSide := 1 } ∧
      0x0E ≤ (0x0E : BitVec 8).toNat ∧ 0x0E ≤ (0xFF : BitVec 8).toNat := by
  unfold Params.Legal; decide
theorem witness_ResetCsrView :
    State.input { stream .atk with input := [.hardReset] } = .hardReset :: [] ∧ (0x0C : BitVec 8).toNat ≠ 0x04 ∧
      (0x0E : BitVec 8).toNat ≠ 0x0D := by decide
/-- For EveryStepKeepsInvariant and NoStepReadsUnwrittenElement, in every mode. -/
theorem witness_EveryStepKeepsInvariant :
    ∀ m, CoreInv { stream m with input := [.command 0x31000000000000FF] } ∧
      (next? (step { stream m with input := [.command 0x31000000000000FF] })).map (·.col) = some 1 := fun m =>
  ⟨by cases m <;> constructor <;> decide, by cases m <;> decide⟩
theorem witness_AccumulatorsStayInRange :
    (CoreInv (stream .fs) ∧ (stream .fs).active = true ∧ (stream .fs).mode = .fs) ∧
      CoreInv (stream .atk) ∧ (stream .atk).active = true ∧ (stream .atk).mode = .atk :=
  ⟨⟨test_stream_inv .fs, by decide, by decide⟩, test_stream_inv .atk, by decide, by decide⟩

end Sys2Proof.Tests
end

section
/-! PROOFS. The invariant is kept and no step stops with a fault of the model (R57, R162): from a state that meets
`CoreInv` every command answers a state that meets it again (`exec_keeps`). The one hard command is PIX, whose
accumulator bound moves one column on (`fsShares_within_next_limit`, `atkShares_within_next_limit`). -/

namespace Sys2Proof.Machine

/-! ## Resets, faults and the host's channels -/

/-- A reset of any state with legal parameters meets the invariant (R58, R221). -/
theorem coreInv_resetState {s : State} (hp : s.params.Legal) : CoreInv (resetState s) where
  params := hp
  width := Nat.zero_le _
  tlut_wf := .nil
  tlut_within := by simp [Memory.Within]
  acc0_wf := .nil
  acc0_within := by simp [Memory.Within]
  acc1_wf := .nil
  acc1_within := by simp [Memory.Within]
  acc2_wf := .nil
  acc2_within := by simp [Memory.Within]
  pbuf_wf := .nil
  pbuf_within := by simp [Memory.Within]
  idle := fun _ => ⟨rfl, rfl, rfl⟩
  stream := by simp
  blueTile := by simp
  tileExclusive := by simp
  tileEmpty := fun _ _ => ⟨rfl, rfl⟩
  tileLoading := by simp
  tileValid := by simp
  payload := by simp [Memory.Written]
  accumulators := by simp
  noRecord := fun _ => ⟨rfl, rfl, rfl, rfl⟩
  record := by simp

/-- No clause of the invariant reads the command channel. -/
theorem CoreInv.withInput {s : State} (hi : CoreInv s) (inp : List HostInput) : CoreInv { s with input := inp } :=
  { hi with }

theorem FaultCode.code_range {e : FaultCode} (he : e ≠ .none) : 1 ≤ e.code.toNat ∧ e.code.toNat ≤ 7 := by
  cases e with
  | none => exact absurd rfl he
  | _ => decide

/-- A fault of the core is recorded with a code of 1 to 7 and changes nothing else the invariant reads (R203, R206). -/
theorem CoreInv.takeFault {s : State} (hi : CoreInv s) {e : FaultCode} (he : e ≠ .none) (opc info : BitVec 8) :
    CoreInv (takeFault opc e info s) :=
  { hi with noRecord := by simp, record := fun _ => FaultCode.code_range he }

/-! ## Commands other than PIX -/

/-- The outcome is a next state, and that state meets the invariant. -/
def AnswersInv (r : StepOutcome) : Prop := ∃ t, r = .next t ∧ CoreInv t

theorem answersInv_raise {s : State} (hi : CoreInv s) {e : FaultCode} (he : e ≠ .none) (opc info : BitVec 8) :
    AnswersInv (raise opc e info s) := ⟨_, rfl, hi.takeFault he opc info⟩

theorem answersInv_complete {s : State} (hi : CoreInv s) : AnswersInv (complete s) := ⟨_, rfl, { hi with }⟩

theorem answersInv_finish {r : Except Fault State} {u : State} (hr : r = .ok u) (hi : CoreInv u) :
    AnswersInv (finish r) := hr ▸ answersInv_complete hi

/-- The legal widths (R24, R79 check 4). -/
theorem widthLegal_iff {p : Params} {w : BitVec 16} : widthLegal p w = true ↔ 1 ≤ w.toNat ∧ w.toNat ≤ p.maxWidth := by
  simp only [widthLegal, Bool.and_eq_true, decide_eq_true_eq]

/-- The legal tile sides (R29, R117). -/
theorem tileSideLegal_iff {p : Params} {side : BitVec 16} :
    tileSideLegal p side = true ↔ 1 ≤ side.toNat ∧ side.toNat ≤ p.tileMaxSide := by
  simp only [tileSideLegal, Bool.and_eq_true, decide_eq_true_eq]

theorem execSetw_keeps {s : State} (hi : CoreInv s) (w : BitVec 16) : AnswersInv (execSetw w s) := by
  unfold execSetw
  split
  · exact answersInv_raise hi (by decide) _ _
  · split
    · exact answersInv_raise hi (by decide) _ _
    · next hw ha =>
      obtain ⟨-, hwidth⟩ := widthLegal_iff.mp (by simpa using hw)
      exact answersInv_complete { hi with width := hwidth, stream := fun h => absurd h ha }

theorem execSetmode_keeps {s : State} (hi : CoreInv s) (m : BitVec 3) : AnswersInv (execSetmode m s) := by
  unfold execSetmode
  split
  · exact answersInv_raise hi (by decide) _ _
  · split
    · exact answersInv_raise hi (by decide) _ _
    · next ha =>
      exact answersInv_complete
        { hi with blueTile := fun h => absurd h ha, accumulators := fun h => absurd h ha }

theorem execSetcmp_keeps {s : State} (hi : CoreInv s) (atkGe packLe : Bool) :
    AnswersInv (execSetcmp atkGe packLe s) := by
  unfold execSetcmp
  split
  · exact answersInv_raise hi (by decide) _ _
  · exact answersInv_complete { hi with }

theorem execTlbegin_keeps {s : State} (hi : CoreInv s) (side : BitVec 16) : AnswersInv (execTlbegin side s) := by
  unfold execTlbegin
  split
  · exact answersInv_raise hi (by decide) _ _
  · split
    · exact answersInv_raise hi (by decide) _ _
    · next hempty hside =>
      have hv : s.tileValid = false ∧ s.tileLoading = false := by simpa using hempty
      obtain ⟨hone, hmax⟩ := tileSideLegal_iff.mp (by simpa using hside)
      exact answersInv_complete
        { hi with
          tileExclusive := by simp [hv.1]
          tileEmpty := by simp
          tileLoading := fun _ => ⟨hone, hmax, by simp, by simp [Memory.Written]⟩
          tileValid := by simp [hv.1] }

/-- A load in progress fits TLUT: TILE_SIDE² is at most the size of the space (R9, R59). -/
theorem area_le_tlutSize {p : Params} {n : Nat} (h : n ≤ p.tileMaxSide) : n * n ≤ tlutSize p := Nat.mul_le_mul h h

/-- Writing the next element extends the written part by one. -/
theorem Memory.written_write_next {α : Type} {m : Memory α} {n : Nat} (h : m.Written n) (v : α) :
    (m.write n v).Written (n + 1) := fun k hk => by
  rw [Memory.read_write]
  split
  · rfl
  · next hne => exact h k (by omega)

theorem execTldata_keeps {s : State} (hi : CoreInv s) (d : Byte) : AnswersInv (execTldata d s) := by
  unfold execTldata
  split
  · exact answersInv_raise hi (by decide) _ _
  · split
    · exact answersInv_raise hi (by decide) _ _
    · next hl hfull =>
      have hload : s.tileLoading = true := by simpa using hl
      obtain ⟨hside, hmax, hcount, hwritten⟩ := hi.tileLoading hload
      have hroom : s.tileCount.toNat < s.tileArea := lt_of_le_of_ne hcount hfull
      have hin : s.tileCount.toNat < tlutSize s.params := lt_of_lt_of_le hroom (area_le_tlutSize hmax)
      have hnext : (s.tileCount + 1).toNat = s.tileCount.toNat + 1 := by
        have harea : s.tileArea ≤ 65535 * 65535 :=
          Nat.mul_le_mul (Nat.le_of_lt_succ s.tileSide.isLt) (Nat.le_of_lt_succ s.tileSide.isLt)
        bv_omega
      have hvalid : s.tileValid = false := by
        have := hi.tileExclusive
        simp_all
      refine answersInv_finish (u := { s with
          tlut := s.tlut.write s.tileCount.toNat d, tileCount := s.tileCount + 1 }) ?_ ?_
      · simp [tileAppend, memWrite, hin]
      · exact
          { hi with
            tlut_wf := Memory.write_wf hi.tlut_wf _ _
            tlut_within := Memory.write_within hi.tlut_within hin _
            tileEmpty := by simp [hload]
            tileLoading := fun _ => ⟨hside, hmax, hnext.le.trans hroom, by
              simpa only [hnext] using Memory.written_write_next hwritten d⟩
            tileValid := by simp [hvalid] }

theorem execTlend_keeps {s : State} (hi : CoreInv s) : AnswersInv (execTlend s) := by
  unfold execTlend
  split
  · exact answersInv_raise hi (by decide) _ _
  · split
    · exact answersInv_raise hi (by decide) _ _
    · next hl hfull =>
      have hcount : s.tileCount.toNat = s.tileArea := not_not.mp hfull
      obtain ⟨hside, hmax, -, hwritten⟩ := hi.tileLoading (by simpa using hl)
      exact answersInv_complete
        { hi with
          blueTile := by simp
          tileExclusive := by simp
          tileEmpty := by simp
          tileLoading := by simp
          tileValid := fun _ => ⟨hside, hmax, hcount, hcount ▸ hwritten⟩ }

/-- An array of zeros is within every bound. -/
theorem accBounded_zeroAcc {p : Params} {x : Nat} (hx : x < p.maxWidth) (limit : Nat) :
    accBounded (zeroAcc p) x limit := by
  simp [accBounded, zeroAcc, Memory.read_fill, hx]

theorem execStart_keeps {s : State} (hi : CoreInv s) : AnswersInv (execStart s) := by
  unfold execStart
  split
  · exact answersInv_raise hi (by decide) _ _
  · split
    · exact answersInv_raise hi (by decide) _ _
    · split
      · exact answersInv_raise hi (by decide) _ _
      · next hw htile =>
        have hw1 : 1 ≤ s.w.toNat := Nat.pos_of_ne_zero fun h => hw (BitVec.eq_of_toNat_eq h)
        exact answersInv_complete
          { hi with
            acc0_wf := Memory.fill_wf _ _
            acc0_within := Memory.fill_within _ _
            acc1_wf := Memory.fill_wf _ _
            acc1_within := Memory.fill_within _ _
            acc2_wf := Memory.fill_wf _ _
            acc2_within := Memory.fill_within _ _
            idle := by simp
            stream := fun _ => ⟨hw1, by simpa using hw1, by simp, by simp⟩
            blueTile := fun _ hb => by simpa [show s.mode = .blue from hb] using htile
            accumulators := fun _ _ hx =>
              ⟨accBounded_zeroAcc hx _, accBounded_zeroAcc hx _, accBounded_zeroAcc hx _⟩ }

theorem execEndStream_keeps {s : State} (hi : CoreInv s) : AnswersInv (execEndStream s) := by
  unfold execEndStream
  split
  · exact answersInv_raise hi (by decide) _ _
  · split
    · exact answersInv_raise hi (by decide) _ _
    · next ha hc =>
      have hcol : s.col = 0 := not_not.mp hc
      obtain ⟨-, -, hn, hacc⟩ := hi.stream (by simpa using ha)
      have hn0 : s.packN = 0 := BitVec.eq_of_toNat_eq (by simp [hn, hcol])
      have hacc0 : s.packAcc = 0 := BitVec.eq_of_toNat_eq (by simpa [hn0] using hacc)
      exact answersInv_complete
        { hi with idle := fun _ => ⟨hcol, hn0, hacc0⟩, stream := by simp, blueTile := by simp, accumulators := by simp }

/-- The payload of a state that meets the invariant reads back (R57 item 5). -/
theorem CoreInv.payloadBytes_ok {s : State} (hi : CoreInv s) : ∃ bytes, payloadBytes s = .ok bytes := by
  obtain ⟨hlen, -, hwritten⟩ := hi.payload
  refine ⟨(List.range s.payloadLen.toNat).map fun k => (s.pbuf.read k).getD 0, payloadBytes_ok_iff.mpr ⟨by simp, ?_⟩⟩
  intro k hk
  obtain ⟨b, hb⟩ := Option.isSome_iff_exists.mp (hwritten k hk)
  exact ⟨lt_of_lt_of_le hk hlen, by simp [hk, hb]⟩

theorem frame_keeps {s : State} (hi : CoreInv s) (opc : BitVec 8) (w h : Int) : AnswersInv (frame opc w h s) := by
  unfold frame
  split
  · exact answersInv_raise hi (by decide) _ _
  split
  · exact answersInv_raise hi (by decide) _ _
  split
  · exact answersInv_raise hi (by decide) _ _
  split
  · exact answersInv_raise hi (by decide) _ _
  split
  · exact answersInv_raise hi (by decide) _ _
  · obtain ⟨bytes, hbytes⟩ := hi.payloadBytes_ok
    refine answersInv_finish (u := { emit (frameHeader w h ++ bytes) s with payloadLen := 0, payloadRows := 0 }) ?_ ?_
    · simp [emitFrame, hbytes]
    · exact { hi with payload := by simp [Memory.Written] }

/-! ## PIX: the accumulators stay within the bound of the next column (R162) -/

/-- An array of `n` elements in canonical form, every element written and bounded at its index. -/
structure ArrayWithin (m : Memory AccWord) (n : Nat) (limit : Nat → Nat) : Prop where
  wf : m.wf
  within : m.Within n
  bounded : ∀ x, x < n → accBounded m x (limit x)

/-- The three accumulator arrays are as the invariant wants them when the next column is `c` (R57 item 6, R162). -/
def AccReady (c : Nat) (s : State) : Prop :=
  ∀ k, ArrayWithin (s.acc k) s.params.maxWidth (accLimit s.mode k c)

theorem accBounded_iff {m : Memory AccWord} {x limit : Nat} :
    accBounded m x limit ↔ ∃ b, m.read x = some b ∧ b.toInt.natAbs ≤ limit := by
  simp [accBounded, Option.any_eq_true]

theorem ArrayWithin.mono {m : Memory AccWord} {n : Nat} {limit limit' : Nat → Nat} (h : ArrayWithin m n limit)
    (hle : ∀ x, limit x ≤ limit' x) : ArrayWithin m n limit' := by
  refine ⟨h.wf, h.within, fun x hx => ?_⟩
  obtain ⟨b, hb, hbound⟩ := accBounded_iff.mp (h.bounded x hx)
  exact accBounded_iff.mpr ⟨b, hb, hbound.trans (hle x)⟩

theorem arrayWithin_zeroAcc (p : Params) (limit : Nat → Nat) : ArrayWithin (zeroAcc p) p.maxWidth limit :=
  ⟨Memory.fill_wf _ _, Memory.fill_within _ _, fun _ hx => accBounded_zeroAcc hx _⟩

/-- The invariant's accumulator clauses, at the present column. -/
theorem CoreInv.accReady {s : State} (hi : CoreInv s) (hact : s.active = true) : AccReady s.col.toNat s := fun k => by
  have hacc := hi.accumulators hact
  cases k with
  | acc0 => exact ⟨hi.acc0_wf, hi.acc0_within, fun x hx => (hacc x hx).1⟩
  | acc1 => exact ⟨hi.acc1_wf, hi.acc1_within, fun x hx => (hacc x hx).2.1⟩
  | acc2 => exact ⟨hi.acc2_wf, hi.acc2_within, fun x hx => (hacc x hx).2.2⟩

theorem AccReady.accInv {s : State} (h : AccReady s.col.toNat s) : accInv s := fun x hx =>
  ⟨(h .acc0).bounded x hx, (h .acc1).bounded x hx, (h .acc2).bounded x hx⟩

/-- No bound of R162 exceeds 192. -/
theorem accLimit_le (mode : Mode) (k : AccName) (c x : Nat) : accLimit mode k c x ≤ 192 := by
  cases mode <;> cases k <;> simp only [accLimit] <;> grind

theorem AccReady.accGood {c : Nat} {s : State} (h : AccReady c s) : accGood s 192 := fun k x hx => by
  obtain ⟨b, hb, hle⟩ := accBounded_iff.mp ((h k).bounded x hx)
  exact ⟨b, hb, hle.trans (accLimit_le _ _ _ _)⟩

theorem AccReady.accShape {c : Nat} {s : State} (h : AccReady c s) : accShape s := fun k => ⟨(h k).wf, (h k).within⟩

theorem shareSum_append (k : AccName) (x : Nat) (l m : List Share) :
    shareSum k x (l ++ m) = shareSum k x l + shareSum k x m := by
  induction l with
  | nil => simp [shareSum]
  | cons h l ih => simp [shareSum, ih, add_assoc]

theorem shareSum_if (k : AccName) (x : Nat) (p : Prop) [Decidable p] (l : List Share) :
    shareSum k x (if p then l else []) = if p then shareSum k x l else 0 := by
  split <;> rfl

/-! What one array gains from a kernel is the gain the claims name (R153, R156). -/

theorem shareSum_fsShares_acc0 (w c : Nat) (e : Int) (x : Nat) :
    shareSum .acc0 x (fsShares w c e) = fsGain0 w c e x := by
  simp only [fsShares, shareSum_append, shareSum_if, shareSum, fsGain0, reduceCtorEq, true_and, false_and]
  grind

theorem shareSum_fsShares_acc1 (w c : Nat) (e : Int) (x : Nat) :
    shareSum .acc1 x (fsShares w c e) = fsGain1 w c e x := by
  simp only [fsShares, shareSum_append, shareSum_if, shareSum, fsGain1, reduceCtorEq, true_and, false_and]
  grind

theorem shareSum_fsShares_acc2 (w c : Nat) (e : Int) (x : Nat) :
    shareSum .acc2 x (fsShares w c e) = 0 := by
  simp [fsShares, shareSum_append, shareSum_if, shareSum]

theorem shareSum_atkShares_acc0 (w c : Nat) (e : Int) (x : Nat) :
    shareSum .acc0 x (atkShares w c e) = atkGain0 w c e x := by
  simp only [atkShares, shareSum_append, shareSum_if, shareSum, atkGain0, reduceCtorEq, true_and, false_and]
  grind

theorem shareSum_atkShares_acc1 (w c : Nat) (e : Int) (x : Nat) :
    shareSum .acc1 x (atkShares w c e) = atkGain1 w c e x := by
  simp only [atkShares, shareSum_append, shareSum_if, shareSum, atkGain1, reduceCtorEq, true_and, false_and]
  grind

theorem shareSum_atkShares_acc2 (w c : Nat) (e : Int) (x : Nat) :
    shareSum .acc2 x (atkShares w c e) = atkGain2 c e x := by
  simp [atkShares, shareSum_append, shareSum_if, shareSum, atkGain2, eq_comm]

/-- What FS shares from column `c` fits between its bound and the next column's (R153, R162). -/
theorem fsShares_within_next_limit {e : Int} (he : e.natAbs ≤ 12) (w c : Nat) (k : AccName) (x : Nat) :
    accLimit .fs k c x + (shareSum k x (fsShares w c e)).natAbs ≤ accLimit .fs k (c + 1) x := by
  cases k with
  | acc0 =>
    rw [shareSum_fsShares_acc0]
    simp only [accLimit, fsGain0]
    split_ifs <;> omega
  | acc1 =>
    rw [shareSum_fsShares_acc1]
    simp only [accLimit, fsGain1]
    split_ifs <;> omega
  | acc2 =>
    rw [shareSum_fsShares_acc2]
    simp only [accLimit, Int.natAbs_zero, le_refl]

/-- What ATK shares from column `c` fits between its bound and the next column's (R156, R162). -/
theorem atkShares_within_next_limit {e : Int} (he : e.natAbs ≤ 24) (w c : Nat) (k : AccName) (x : Nat) :
    accLimit .atk k c x + (shareSum k x (atkShares w c e)).natAbs ≤ accLimit .atk k (c + 1) x := by
  cases k with
  | acc0 =>
    rw [shareSum_atkShares_acc0]
    simp only [accLimit, atkGain0]
    split_ifs <;> omega
  | acc1 =>
    rw [shareSum_atkShares_acc1]
    simp only [accLimit, atkGain1]
    split_ifs <;> omega
  | acc2 =>
    rw [shareSum_atkShares_acc2]
    simp only [accLimit, atkGain2]
    split_ifs <;> omega

theorem quantized_toNat (isLight : Bool) : (quantized isLight).toNat = if isLight then 255 else 0 := by
  cases isLight <;> rfl

/-- R162: the FS error of a total in range. -/
theorem fsError_natAbs_le {total : Int} (hlo : -192 ≤ total) (hhi : total ≤ 447) : (fsError total).natAbs ≤ 12 := by
  simp only [fsError, fsQuantize, floorDiv, quantized_toNat, edThreshold]
  by_cases h : total > 0x3F <;>
      simp only [h, decide_true, decide_false, if_true, Bool.false_eq_true, if_false] <;> omega

/-- R162: the ATK error of a total in range: the total is at least 63 where it is light and at most 63 where it is dark,
whichever comparator is selected. -/
theorem atkError_natAbs_le {total : Int} (hlo : -144 ≤ total) (hhi : total ≤ 399) (atkGe : Bool) :
    (atkError atkGe total).natAbs ≤ 24 := by
  simp only [atkError, atkQuantize, floorDiv, quantized_toNat, edThreshold]
  cases atkGe with
  | true =>
    by_cases h : total ≥ 0x3F <;>
      simp only [h, decide_true, decide_false, if_true, Bool.false_eq_true, if_false] <;> omega
  | false =>
    by_cases h : total > 0x3F <;>
      simp only [h, decide_true, decide_false, if_true, Bool.false_eq_true, if_false] <;> omega

theorem absSum_append (l m : List Share) : absSum (l ++ m) = absSum l + absSum m := by
  induction l with
  | nil => simp [absSum]
  | cons h l ih => simp [absSum, ih, add_assoc]

theorem absSum_if_le (p : Prop) [Decidable p] (l : List Share) : absSum (if p then l else []) ≤ absSum l := by
  split
  · exact le_rfl
  · exact Nat.zero_le _

theorem absSum_fsShares_le {e : Int} (he : e.natAbs ≤ 12) (w c : Nat) : absSum (fsShares w c e) ≤ 192 := by
  have hright := absSum_if_le (c + 1 < w) [⟨.acc0, c + 1, 7 * e⟩, ⟨.acc1, c + 1, 1 * e⟩]
  have hleft := absSum_if_le (0 < c) [⟨.acc1, c - 1, 3 * e⟩]
  simp only [fsShares, absSum_append]
  simp only [absSum] at *
  omega

theorem absSum_atkShares_le {e : Int} (he : e.natAbs ≤ 24) (w c : Nat) : absSum (atkShares w c e) ≤ 192 := by
  have hnext := absSum_if_le (c + 1 < w) [⟨.acc0, c + 1, e⟩]
  have hafter := absSum_if_le (c + 2 < w) [⟨.acc0, c + 2, e⟩]
  have hleft := absSum_if_le (0 < c) [⟨.acc1, c - 1, e⟩]
  have hright := absSum_if_le (c + 1 < w) [⟨.acc1, c + 1, e⟩]
  simp only [atkShares, absSum_append]
  simp only [absSum] at *
  omega

theorem fsShares_column_lt {w c : Nat} (hc : c + 1 ≤ w) (e : Int) : ∀ h ∈ fsShares w c e, h.column < w := by
  intro h hh
  simp only [fsShares, List.mem_append, List.mem_ite_nil_right, List.mem_cons, List.not_mem_nil, or_false] at hh
  rcases hh with (⟨_, rfl | rfl⟩ | ⟨_, rfl⟩) | rfl <;> simp only <;> omega

theorem atkShares_column_lt {w c : Nat} (hc : c + 1 ≤ w) (e : Int) : ∀ h ∈ atkShares w c e, h.column < w := by
  intro h hh
  simp only [atkShares, List.mem_append, List.mem_ite_nil_right, List.mem_cons, List.not_mem_nil, or_false] at hh
  rcases hh with ((((⟨_, rfl⟩ | ⟨_, rfl⟩) | ⟨_, rfl⟩) | rfl) | ⟨_, rfl⟩) | rfl <;> simp only <;> omega

/-- In an open stream the column lies inside every accumulator array (R57 item 2, R24). -/
theorem CoreInv.col_lt_maxWidth {s : State} (hi : CoreInv s) (hact : s.active = true) :
    s.col.toNat < s.params.maxWidth := by
  have hw := hi.width
  obtain ⟨-, hc, -, -⟩ := hi.stream hact
  omega

/-- The total of R152 and R155 exists, and ACC0's bound limits it. -/
theorem diffusionTotal_ok {s : State} (hi : CoreInv s) (hact : s.active = true) (sample : Byte) :
    ∃ total, diffusionTotal sample s = .ok total ∧
      -(accLimit s.mode .acc0 s.col.toNat s.col.toNat : Int) ≤ total ∧
      total ≤ 255 + accLimit s.mode .acc0 s.col.toNat s.col.toNat := by
  have hcol := hi.col_lt_maxWidth hact
  obtain ⟨b, hb, hle⟩ := accBounded_iff.mp ((hi.accReady hact .acc0).bounded _ hcol)
  have hsample : sample.toNat < 256 := sample.isLt
  refine ⟨sample.toNat + b.toInt, ?_, by omega, by omega⟩
  simp [diffusionTotal, accRead_ok_iff.mpr ⟨hcol, b, hb, rfl⟩]

/-- Shares that fit between the two bounds are all added, and leave the accumulators ready for the next column. -/
theorem applyShares_accReady {s : State} (hi : CoreInv s) (hact : s.active = true) {shares : List Share}
    (hcol : ∀ h ∈ shares, h.column < s.w.toNat) (habs : absSum shares ≤ 192)
    (hlimit : ∀ k x, accLimit s.mode k s.col.toNat x + (shareSum k x shares).natAbs ≤
      accLimit s.mode k (s.col.toNat + 1) x) :
    ∃ t, applyShares shares s = .ok t ∧ AccReady (s.col.toNat + 1) t := by
  have hnow := hi.accReady hact
  obtain ⟨t, ht, -, hshape, hparams, hsum⟩ := applyShares_ok shares s 192 hnow.accGood hnow.accShape
    (fun h hh => lt_of_lt_of_le (hcol h hh) hi.width) (by omega)
  have hmode : t.mode = s.mode := by rw [applyShares_sameButAcc ht]
  refine ⟨t, ht, fun k => ⟨(hshape k).1, (hshape k).2, fun x hx => accBounded_iff.mpr ?_⟩⟩
  rw [hparams] at hx
  obtain ⟨b, hb, hval⟩ := hsum k x hx
  obtain ⟨a, ha, hle⟩ := accBounded_iff.mp ((hnow k).bounded x hx)
  rw [accValue_of_read ha] at hval
  have := hlimit k x
  exact ⟨b, hb, by rw [hmode]; omega⟩

theorem decideFs_ok {s : State} (hi : CoreInv s) (hact : s.active = true) (hmode : s.mode = .fs) (sample : Byte) :
    ∃ q t, decideFs sample s = .ok (q, t) ∧ AccReady (s.col.toNat + 1) t := by
  obtain ⟨total, htotal, hlo, hhi⟩ := diffusionTotal_ok hi hact sample
  simp only [hmode, accLimit, le_refl, if_true] at hlo hhi
  have he : (fsError total).natAbs ≤ 12 := fsError_natAbs_le hlo (by omega)
  obtain ⟨-, hc, -, -⟩ := hi.stream hact
  obtain ⟨t, ht, hready⟩ := applyShares_accReady hi hact (fsShares_column_lt hc _)
    (absSum_fsShares_le he _ _) (by rw [hmode]; exact fsShares_within_next_limit he _ _)
  exact ⟨fsQuantize total, t, by simp only [decideFs, htotal, ht], hready⟩

theorem decideAtk_ok {s : State} (hi : CoreInv s) (hact : s.active = true) (hmode : s.mode = .atk) (sample : Byte) :
    ∃ q t, decideAtk sample s = .ok (q, t) ∧ AccReady (s.col.toNat + 1) t := by
  obtain ⟨total, htotal, hlo, hhi⟩ := diffusionTotal_ok hi hact sample
  simp only [hmode, accLimit, le_refl, if_true] at hlo hhi
  have he : (atkError s.atkGe total).natAbs ≤ 24 := atkError_natAbs_le hlo (by omega) _
  obtain ⟨-, hc, -, -⟩ := hi.stream hact
  obtain ⟨t, ht, hready⟩ := applyShares_accReady hi hact (atkShares_column_lt hc _)
    (absSum_atkShares_le he _ _) (by rw [hmode]; exact atkShares_within_next_limit he _ _)
  exact ⟨atkQuantize s.atkGe total, t, by simp only [decideAtk, htotal, ht], hready⟩

/-- A lookup in a valid tile reads a written entry (R61, R120, R57 item 4). -/
theorem tileValueBlue_ok {s : State} (hi : CoreInv s) (hvalid : s.tileValid = true) (r c : Nat) :
    ∃ v, tileValueBlue r c s = .ok v := by
  obtain ⟨hside, hmax, -, hwritten⟩ := hi.tileValid hvalid
  have hin : r % s.tileSide.toNat * s.tileSide.toNat + c % s.tileSide.toNat < s.tileArea := by
    have hr := Nat.mod_lt r hside
    have hc := Nat.mod_lt c hside
    unfold State.tileArea
    nlinarith
  obtain ⟨v, hv⟩ := Option.isSome_iff_exists.mp (hwritten _ hin)
  refine ⟨v, ?_⟩
  simp only [tileValueBlue, Nat.ne_of_gt hside, if_false]
  exact memRead_ok_iff.mpr ⟨lt_of_lt_of_le hin (area_le_tlutSize hmax), hv⟩

/-- In the modes without diffusion the accumulators stay zero (decision D45), so they are ready for any column. -/
theorem AccReady.of_ordered {c : Nat} {s : State} (h : AccReady c s)
    (hmode : s.mode = .bayer ∨ s.mode = .blue ∨ s.mode = .pass) (c' : Nat) : AccReady c' s := fun k =>
  (h k).mono fun x => by rcases hmode with hm | hm | hm <;> simp only [hm, accLimit, le_refl]

/-- Every decision answers, whatever the mode, and leaves the accumulators ready for the next column (R141, R162). -/
theorem ditherDecide_ok {s : State} (hi : CoreInv s) (hact : s.active = true) (sample : Byte) :
    ∃ q t, ditherDecide sample s = .ok (q, t) ∧ AccReady (s.col.toNat + 1) t := by
  unfold ditherDecide
  cases hm : s.mode with
  | bayer => exact ⟨_, s, rfl, (hi.accReady hact).of_ordered (.inl hm) _⟩
  | blue =>
    obtain ⟨v, hv⟩ := tileValueBlue_ok hi (hi.blueTile hact hm) s.row s.col.toNat
    exact ⟨blueQuantize sample v, s, by simp only [decideBlue, hv],
      (hi.accReady hact).of_ordered (.inr (.inl hm)) _⟩
  | fs => exact decideFs_ok hi hact hm sample
  | atk => exact decideAtk_ok hi hact hm sample
  | pass => exact ⟨_, s, rfl, (hi.accReady hact).of_ordered (.inr (.inr hm)) _⟩

/-- After a row ACC1 is within ACC0's bound at the next row's first column, and ACC2 within ACC1's (R154, R158). -/
theorem accLimit_rotate (c x : Nat) :
    accLimit .fs .acc1 c x ≤ accLimit .fs .acc0 0 x ∧ accLimit .atk .acc1 c x ≤ accLimit .atk .acc0 0 x ∧
      accLimit .atk .acc2 c x ≤ accLimit .atk .acc1 0 x := by
  refine ⟨?_, ?_, ?_⟩ <;> simp only [accLimit] <;> split_ifs <;> omega

/-- A row end leaves the accumulators ready for column 0 of the next row (R135, R154, R158). -/
theorem AccReady.rotate {c : Nat} {s : State} (h : AccReady c s) : AccReady 0 (rotate s) := by
  cases hm : s.mode with
  | bayer => exact (rotate_eq_self (.inl hm)).symm ▸ h.of_ordered (.inl hm) 0
  | blue => exact (rotate_eq_self (.inr (.inl hm))).symm ▸ h.of_ordered (.inr (.inl hm)) 0
  | pass => exact (rotate_eq_self (.inr (.inr hm))).symm ▸ h.of_ordered (.inr (.inr hm)) 0
  | fs =>
    intro k
    simp only [AccReady, hm] at h
    rw [rotate_params, rotate_mode, hm, show Machine.rotate s = rotateFs s by simp only [Machine.rotate, hm]]
    cases k with
    | acc0 => exact (h .acc1).mono fun x => (accLimit_rotate c x).1
    | acc1 => exact arrayWithin_zeroAcc _ _
    | acc2 => exact h .acc2
  | atk =>
    intro k
    simp only [AccReady, hm] at h
    rw [rotate_params, rotate_mode, hm, show Machine.rotate s = rotateAtk s by simp only [Machine.rotate, hm]]
    cases k with
    | acc0 => exact (h .acc1).mono fun x => (accLimit_rotate c x).2.1
    | acc1 => exact (h .acc2).mono fun x => (accLimit_rotate c x).2.2
    | acc2 => exact arrayWithin_zeroAcc _ _

/-- Readiness depends on the parameters, the mode and the three arrays only. -/
theorem AccReady.congr {c : Nat} {s t : State} (h : AccReady c s) (hparams : t.params = s.params)
    (hmode : t.mode = s.mode) (hacc : t.acc0 = s.acc0 ∧ t.acc1 = s.acc1 ∧ t.acc2 = s.acc2) : AccReady c t := by
  obtain ⟨h0, h1, h2⟩ := hacc
  intro k
  have hk : t.acc k = s.acc k := by cases k <;> assumption
  rw [hk, hparams, hmode]
  exact h k

/-- An accepted PIX completes with `PixEffect`, and leaves the accumulators ready for the column it leaves. -/
theorem execPix_ok {s : State} (hi : CoreInv s) {last : Bool} (ha : PixAccepted last s) (sample : Byte) :
    ∃ u bit, exec (.pix sample last) s = .next u ∧ PixEffect s bit last u ∧ AccReady u.col.toNat u ∧
      ∃ v : Byte, u.pbuf = if s.packN = 7 ∨ last = true then s.pbuf.write s.payloadLen.toNat v else s.pbuf := by
  obtain ⟨q, t, hd, hready⟩ := ditherDecide_ok hi ha.1 sample
  obtain ⟨u, hu, heff, hnext, hrow, hpbuf⟩ := execPix_of_decide hi ha hd
  refine ⟨u, _, hu, heff, ?_, hpbuf⟩
  have hsame := ditherDecide_sameButAcc hd
  have hparams : u.params = t.params := by rw [heff.frame, hsame]
  have hmode : u.mode = t.mode := by rw [heff.frame, hsame]
  cases last with
  | false =>
    obtain ⟨-, hcol, -⟩ := heff.nextColumn rfl
    rw [hcol]
    exact hready.congr hparams hmode (hnext rfl)
  | true =>
    obtain ⟨-, hcol, -⟩ := heff.rowDone rfl
    rw [hcol]
    exact hready.rotate.congr (by rw [hparams, rotate_params]) (by rw [hmode, rotate_mode]) (hrow rfl)

/-- A PIX that raises none of its four faults is an accepted one (R131, R132, R133). -/
theorem pixAccepted_of_checks {s : State} (hi : CoreInv s) {last : Bool} (hact : s.active = true)
    (hshort : ¬(last = true ∧ s.col.toNat + 1 < s.w.toNat)) (hlong : ¬(last = false ∧ s.col.toNat + 1 = s.w.toNat))
    (hroom : ¬((s.packN = 7 ∨ last = true) ∧ s.payloadLen.toNat = pbufBytes)) : PixAccepted last s := by
  obtain ⟨-, hcol, -, -⟩ := hi.stream hact
  obtain ⟨hlen, -, -⟩ := hi.payload
  refine ⟨hact, ?_, fun hbyte => lt_of_le_of_ne hlen fun h => hroom ⟨hbyte, h⟩⟩
  cases last with
  | false => simpa using hlong
  | true =>
    have : ¬s.col.toNat + 1 < s.w.toNat := by simpa using hshort
    simp only [true_iff]
    omega

section AcceptedPix
variable {s u : State} {bit last : Bool}

/-- R57 item 2 after an accepted PIX. -/
theorem PixEffect.stream (he : PixEffect s bit last u) (hi : CoreInv s) (ha : PixAccepted last s) :
    1 ≤ s.w.toNat ∧ u.col.toNat + 1 ≤ s.w.toNat ∧ u.packN.toNat = u.col.toNat % 8 ∧
      u.packAcc.toNat < 2 ^ u.packN.toNat := by
  obtain ⟨hact, hlast, -⟩ := ha
  obtain ⟨hw, hcol, hpackN, hpackAcc⟩ := hi.stream hact
  cases last with
  | true =>
    obtain ⟨-, hcol0, -⟩ := he.rowDone rfl
    obtain ⟨hacc0, hn0, -⟩ := he.byteOut (.inr rfl)
    exact ⟨hw, by simpa [hcol0] using hw, by simp [hcol0, hn0], by simp [hacc0]⟩
  | false =>
    obtain ⟨-, hcol1, -⟩ := he.nextColumn rfl
    have hmore : s.col.toNat + 1 ≠ s.w.toNat := fun h => by simpa using hlast.mpr h
    by_cases hseven : s.packN = 7
    · obtain ⟨hacc0, hn0, -⟩ := he.byteOut (.inl hseven)
      have hmod : s.col.toNat % 8 = 7 := by rw [← hpackN, hseven]; rfl
      have hempty : u.packN.toNat = 0 := congrArg BitVec.toNat hn0
      exact ⟨hw, by omega, by omega, by simp [hacc0]⟩
    · obtain ⟨hacc, hn, -⟩ := he.bitHeld (by simpa using hseven)
      have hnot : s.packN.toNat ≠ 7 := fun h => hseven (BitVec.eq_of_toNat_eq h)
      have hbit := Bool.toNat_lt bit
      refine ⟨hw, by omega, by omega, ?_⟩
      rw [hacc, hn, packedBits, pow_succ]
      omega

/-- R57 item 5 after an accepted PIX: a row's end appends a byte, so the rows stay at most the bytes. -/
theorem PixEffect.payload (he : PixEffect s bit last u) (hi : CoreInv s) (ha : PixAccepted last s) :
    u.payloadLen.toNat ≤ pbufBytes ∧ u.payloadRows.toNat ≤ u.payloadLen.toNat ∧
      u.pbuf.Written u.payloadLen.toNat := by
  obtain ⟨hlen, hrows, hwritten⟩ := hi.payload
  have hrowsNext : u.payloadRows.toNat ≤ s.payloadRows.toNat + last.toNat := by
    cases last with
    | true =>
      obtain ⟨-, -, hrow⟩ := he.rowDone rfl
      exact hrow.le
    | false =>
      obtain ⟨-, -, hrow⟩ := he.nextColumn rfl
      exact (congrArg BitVec.toNat hrow).le
  by_cases hbyte : s.packN = 7 ∨ last = true
  · obtain ⟨-, -, hlen1, hnew, hold⟩ := he.byteOut hbyte
    have hroom : s.payloadLen.toNat < pbufBytes := ha.2.2 hbyte
    have hone := Bool.toNat_le last
    rw [hlen1]
    refine ⟨hroom, by omega, fun k hk => ?_⟩
    by_cases hkey : k = s.payloadLen.toNat
    · rw [hkey, hnew]; rfl
    · rw [hold k hkey]; exact hwritten k (by omega)
  · obtain ⟨-, -, hlenSame, hpbufSame⟩ := he.bitHeld hbyte
    have hnotLast : last = false := by simpa using fun h => hbyte (.inr h)
    subst hnotLast
    rw [hlenSame, hpbufSame]
    exact ⟨hlen, by simpa using hrowsNext.trans hrows, hwritten⟩

/-- The state an accepted PIX leaves meets the invariant. -/
theorem CoreInv.of_pixEffect (hi : CoreInv s) (ha : PixAccepted last s) (he : PixEffect s bit last u)
    (hready : AccReady u.col.toNat u) {v : Byte}
    (hpbuf : u.pbuf = if s.packN = 7 ∨ last = true then s.pbuf.write s.payloadLen.toNat v else s.pbuf) :
    CoreInv u := by
  have hpbufOk : u.pbuf.wf ∧ u.pbuf.Within pbufBytes := by
    rw [hpbuf]
    split
    · next hbyte => exact ⟨Memory.write_wf hi.pbuf_wf _ _, Memory.write_within hi.pbuf_within (ha.2.2 hbyte) _⟩
    · exact ⟨hi.pbuf_wf, hi.pbuf_within⟩
  have hacc : accInv u := hready.accInv
  have hshape := hready.accShape
  rw [he.frame] at hacc hshape ⊢
  exact
    { hi with
      acc0_wf := (hshape .acc0).1
      acc0_within := (hshape .acc0).2
      acc1_wf := (hshape .acc1).1
      acc1_within := (hshape .acc1).2
      acc2_wf := (hshape .acc2).1
      acc2_within := (hshape .acc2).2
      pbuf_wf := hpbufOk.1
      pbuf_within := hpbufOk.2
      idle := by simp [ha.1]
      stream := fun _ => he.stream hi ha
      payload := he.payload hi ha
      accumulators := fun _ => hacc }

end AcceptedPix

theorem execPix_keeps {s : State} (hi : CoreInv s) (sample : Byte) (last : Bool) :
    AnswersInv (execPix sample last s) := by
  by_cases haccepted : PixAccepted last s
  · obtain ⟨u, bit, hu, heff, hready, v, hpbuf⟩ := execPix_ok hi haccepted sample
    exact ⟨u, hu, hi.of_pixEffect haccepted heff hready hpbuf⟩
  · unfold execPix
    split
    · exact answersInv_raise hi (by decide) _ _
    split
    · exact answersInv_raise hi (by decide) _ _
    split
    · exact answersInv_raise hi (by decide) _ _
    split
    · exact answersInv_raise hi (by decide) _ _
    · next hidle hshort hlong hroom =>
      exact absurd (pixAccepted_of_checks hi (by simpa using hidle) hshort hlong hroom) haccepted

/-! ## Every command, and every step -/

/-- From a state that meets the invariant every command answers a state that meets it. -/
theorem exec_keeps {s : State} (hi : CoreInv s) (i : Instr) : AnswersInv (exec i s) := by
  cases i with
  | nop => exact answersInv_complete hi
  | srst => exact ⟨_, rfl, coreInv_resetState hi.params⟩
  | setw w => exact execSetw_keeps hi w
  | setmode m => exact execSetmode_keeps hi m
  | setcmp atkGe packLe => exact execSetcmp_keeps hi atkGe packLe
  | setfw v => exact answersInv_complete { hi with }
  | setfh v => exact answersInv_complete { hi with }
  | tlbegin side => exact execTlbegin_keeps hi side
  | tldata d => exact execTldata_keeps hi d
  | tlend => exact execTlend_keeps hi
  | start => exact execStart_keeps hi
  | pix sample last => exact execPix_keeps hi sample last
  | endStream => exact execEndStream_keeps hi
  | build => exact frame_keeps hi _ _ _
  | builda => exact frame_keeps hi _ _ _

theorem runWord_keeps {s : State} (hi : CoreInv s) (w : CommandWord) : AnswersInv (runWord w s) := by
  unfold runWord
  split
  · split
    · exact ⟨_, rfl, coreInv_resetState hi.params⟩
    · exact ⟨_, rfl, hi⟩
  · split
    · exact answersInv_raise hi (by decide) _ _
    · exact exec_keeps hi _

/-- One step of a state that meets the invariant answers a state that meets it, or refuses the one schedule of R227. -/
theorem step_keeps {s : State} (hi : CoreInv s) : AnswersInv (step s) ∨ ∃ r, step s = .refused r := by
  unfold step
  split
  · exact .inl ⟨s, rfl, hi⟩
  · next i rest hinput =>
    cases i with
    | command w =>
      simp only [takeInput]
      split
      · exact .inl ⟨s, rfl, hi⟩
      · exact .inl (runWord_keeps (hi.withInput rest) w)
    | hardReset => exact .inl ⟨_, rfl, coreInv_resetState hi.params⟩
    | resetDuring w n => exact .inl ⟨_, rfl, coreInv_resetState hi.params⟩
    | wordDuringReset w => exact .inr ⟨_, rfl⟩

/-- Settles O53: every command, and so every step, answers a state that meets the invariant (`exec_keeps`). -/
theorem everyStepKeepsInvariant : Obligations.EveryStepKeepsInvariant := by
  intro s t hi hstep
  rcases step_keeps hi with ⟨u, hu, hinv⟩ | ⟨r, hr⟩
  · rw [hu] at hstep
    cases hstep
    exact hinv
  · rw [hr] at hstep
    cases hstep

/-- Settles O54: a step of a state that meets the invariant answers a next state or refuses, and so never faults. -/
theorem noStepReadsUnwrittenElement : Obligations.NoStepReadsUnwrittenElement := by
  intro s hi f hstep
  rcases step_keeps hi with ⟨u, hu, -⟩ | ⟨r, hr⟩
  · rw [hu] at hstep
    cases hstep
  · rw [hr] at hstep
    cases hstep

/-- Settles O52: the state after power-on is a reset of itself, with the default parameters. -/
theorem resetMeetsInvariant : Obligations.ResetMeetsInvariant :=
  coreInv_resetState (s := State.reset) (by decide)

end Sys2Proof.Machine
end

section
/-! PROOFS. Resets, CMD_COUNT, OUT and the parameters over one step (10_state.md). -/

namespace Sys2Proof.Machine

/-! ## Resets -/

/-- A reset gives the values of R58, whatever the state and whatever the channel still holds. -/
theorem resetFrom_resetState (s : State) (inp : List HostInput) : ResetFrom s (resetState { s with input := inp }) := by
  constructor <;> rfl

/-- Settles O12: the hardware reset and SRST both answer `resetState`. -/
theorem resetsGiveResetValues : Obligations.ResetsGiveResetValues := by
  constructor
  · intro s rest hinput
    refine ⟨resetState { s with input := rest }, ?_, resetFrom_resetState s rest, rfl, rfl⟩
    simp only [step, hinput, takeInput]
  · exact fun s => ⟨resetState s, rfl, resetFrom_resetState s s.input, rfl, rfl⟩

/-! ## Words without operand bits -/

/-- What a word that decodes is made of: checks 1 to 3 of R79, passed. -/
theorem decode_ok_fields {w : CommandWord} {i : Instr} (h : decode w = .ok i) :
    opcField w = i.opcode.bits ∧ rsvField w = 0 ∧ operandField w &&& i.opcode.mbz = 0 := by
  unfold decode at h
  split at h
  · cases h
  · next o ho =>
    split at h
    · cases h
    · split at h
      · cases h
      · next hrsv hmbz =>
        cases h
        have hopc : (o.assemble (operandField w)).opcode = o := by cases o <;> rfl
        have hbits : o.bits = opcField w := by simpa using List.find?_some ho
        rw [hopc]
        exact ⟨hbits.symm, not_not.mp hrsv, not_not.mp hmbz⟩

/-- A word is its three fields (R78). -/
theorem word_eq_fields (w : CommandWord) : w = opcField w ++ rsvField w ++ operandField w := by
  apply BitVec.eq_of_getLsbD_eq
  intro k hk
  simp only [opcField, rsvField, operandField, BitVec.getLsbD_append, BitVec.getLsbD_extractLsb']
  grind

/-- Where every operand bit must be zero, the opcode alone makes the word (R83). -/
theorem word_of_decode {w : CommandWord} {i : Instr} (h : decode w = .ok i)
    (hmbz : i.opcode.mbz = BitVec.allOnes 32) : w = i.opcode.bits ++ (0 : BitVec 24) ++ (0 : BitVec 32) := by
  obtain ⟨hopc, hrsv, hoperand⟩ := decode_ok_fields h
  rw [hmbz, BitVec.and_allOnes] at hoperand
  rw [word_eq_fields w, hopc, hrsv, hoperand]

theorem srstWord_of_decode {w : CommandWord} (h : decode w = .ok .srst) : w = 0x0100000000000000 :=
  word_of_decode h rfl

theorem buildWord_of_decode {w : CommandWord} (h : decode w = .ok .build) : w = 0x4000000000000000 :=
  word_of_decode h rfl

theorem buildaWord_of_decode {w : CommandWord} (h : decode w = .ok .builda) : w = 0x4100000000000000 :=
  word_of_decode h rfl

/-! ## CMD_COUNT (R34) -/

/-- A transport that takes bytes holds no word. -/
theorem holds_of_ready (w : CommandWord) {s : State} (h : s.transportReady = true) : holds w s = false := by
  simp [holds, h]

/-- A faulted core emits nothing, whatever the word, so no word is held. -/
theorem emittedBy_of_fault (w : CommandWord) {s : State} (h : s.fault = true) : emittedBy w s = [] := by
  unfold emittedBy runWord
  by_cases hw : w = srstWord <;> simp [h, hw]

theorem holds_of_fault (w : CommandWord) {s : State} (h : s.fault = true) : holds w s = false := by
  simp [holds, emittedBy_of_fault w h]

/-- The exact SRST word decodes to SRST, with no byte emitted, faulted or not. -/
theorem runWord_srstWord (s : State) : runWord srstWord s = .next (resetState s) := by
  have hdecode : decode srstWord = .ok .srst := by decide
  unfold runWord
  cases s.fault <;> simp [hdecode, exec, execSrst]

theorem holds_srstWord (s : State) : holds srstWord s = false := by
  simp [holds, emittedBy, runWord_srstWord]

/-- A word that is not held is taken and run. -/
theorem step_command {s : State} {w : CommandWord} {rest : List HostInput} (hinput : s.input = .command w :: rest)
    (hheld : holds w s = false) : step s = runWord w { s with input := rest } := by
  simp only [step, hinput, takeInput, hheld, Bool.false_eq_true, if_false]

/-- A word other than SRST, run with FAULT = 0, advances CMD_COUNT by one, whether it faults or completes. -/
theorem runWord_cmdCount {w : CommandWord} {s t : State} (h : runWord w s = .next t) (hw : w ≠ 0x0100000000000000)
    (hfault : s.fault = false) : t.cmdCount = s.cmdCount + 1 := by
  rcases runWord_next_cases h with ⟨hf, -, -⟩ | ⟨hf, -, -⟩ | ⟨-, e, -, rfl⟩ | ⟨-, i, hi, hx⟩
  · simp [hfault] at hf
  · simp [hfault] at hf
  · rfl
  · rcases exec_next_cases hx with ⟨e, info, rfl, -⟩ | ⟨rfl, -⟩ | ⟨hcount, -⟩
    · rfl
    · exact absurd (srstWord_of_decode hi) hw
    · exact hcount

/-- A faulted core discards every word but SRST. -/
theorem runWord_discards {w : CommandWord} {s : State} (hw : w ≠ 0x0100000000000000) (hfault : s.fault = true) :
    runWord w s = .next s := by
  simp only [runWord, hfault, if_true]
  exact if_neg hw

/-- Settles O44: one clause for each way an input is taken. -/
theorem commandCountAdvancesByOne : Obligations.CommandCountAdvancesByOne := by
  refine ⟨rfl, fun s t hstep => ⟨?_, ?_, ?_, ?_⟩⟩
  · rintro w rest hinput rfl
    rw [step_command hinput (holds_srstWord s)] at hstep
    cases (runWord_srstWord _).symm.trans hstep
    rfl
  · intro w rest hinput hw hfault hready
    rw [step_command hinput (holds_of_ready w hready)] at hstep
    exact runWord_cmdCount (s := { s with input := rest }) hstep hw hfault
  · intro w rest hinput hw hfault
    rw [step_command hinput (holds_of_fault w hfault)] at hstep
    cases (runWord_discards (s := { s with input := rest }) hw hfault).symm.trans hstep
    rfl
  · intro rest hinput
    simp only [step, hinput, takeInput] at hstep
    cases hstep
    rfl

/-! ## OUT (R36) -/

/-- Only the words BUILD and BUILDA emit. -/
theorem word_of_emittedBy {w : CommandWord} {s : State} (h : emittedBy w s ≠ []) :
    w = 0x4000000000000000 ∨ w = 0x4100000000000000 := by
  cases hrun : runWord w s with
  | fault f => simp [emittedBy, hrun] at h
  | refused r => simp [emittedBy, hrun] at h
  | next t =>
    have hout : t.out ≠ s.out := by simpa [runWord_out hrun] using h
    rcases runWord_next_cases hrun with ⟨-, -, rfl⟩ | ⟨-, -, rfl⟩ | ⟨-, e, -, rfl⟩ | ⟨-, i, hi, hx⟩
    · exact absurd rfl hout
    · exact absurd rfl hout
    · exact absurd rfl hout
    · rcases exec_next_cases hx with ⟨e, info, rfl, -⟩ | ⟨-, rfl⟩ | ⟨-, -, -, -, -, -, -, -, -, -, hkeep⟩
      · exact absurd rfl hout
      · exact absurd rfl hout
      · by_cases hb : i = .build
        · exact .inl (buildWord_of_decode (hb ▸ hi))
        · by_cases hba : i = .builda
          · exact .inr (buildaWord_of_decode (hba ▸ hi))
          · exact absurd (hkeep hb hba) hout

/-- Settles O46: OUT gains what the word emits, or the first part of it that a reset lets through. -/
theorem outputOnlyGrowsByFrames : Obligations.OutputOnlyGrowsByFrames := by
  intro s t hstep
  rcases step_next_cases hstep with ⟨-, rfl⟩ |
    ⟨i, rest, hinput, ⟨w, -, -, rfl⟩ | ⟨w, rfl, -, hrun⟩ | ⟨-, rfl⟩ | ⟨w, n, rfl, rfl⟩⟩
  · exact ⟨⟨[], by simp⟩, fun h => absurd rfl h⟩
  · exact ⟨⟨[], by simp⟩, fun h => absurd rfl h⟩
  · have hout := runWord_out hrun
    refine ⟨⟨_, hout⟩, fun h =>
      ⟨w, rest, .inl hinput, word_of_emittedBy (s := { s with input := rest }) fun hnil => h ?_⟩⟩
    rw [hout, hnil, List.append_nil]
  · exact ⟨⟨[], by simp⟩, fun h => absurd rfl h⟩
  · refine ⟨⟨_, rfl⟩, fun h =>
      ⟨w, rest, .inr ⟨n, hinput⟩, word_of_emittedBy (s := { s with input := rest }) fun hnil => h ?_⟩⟩
    simp only [cutByReset, hnil, List.take_nil, resetState_out, emit_out, List.append_nil]

/-! ## The parameters and the host's readiness (R23, R37) -/

theorem runWord_params {w : CommandWord} {s t : State} (h : runWord w s = .next t) :
    t.params = s.params ∧ t.transportReady = s.transportReady := by
  rcases runWord_next_cases h with ⟨-, -, rfl⟩ | ⟨-, -, rfl⟩ | ⟨-, e, -, rfl⟩ | ⟨-, i, -, hx⟩
  · exact ⟨rfl, rfl⟩
  · exact ⟨rfl, rfl⟩
  · exact ⟨rfl, rfl⟩
  · rcases exec_next_cases hx with ⟨e, info, rfl, -⟩ | ⟨-, rfl⟩ | ⟨-, hparams, -, hready, -⟩
    · exact ⟨rfl, rfl⟩
    · exact ⟨rfl, rfl⟩
    · exact ⟨hparams, hready⟩

/-- Settles O48: every way a step can end keeps both. -/
theorem stepKeepsParameters : Obligations.StepKeepsParameters := by
  intro s t hstep
  rcases step_next_cases hstep with ⟨-, rfl⟩ |
    ⟨i, rest, -, ⟨w, -, -, rfl⟩ | ⟨w, -, -, hrun⟩ | ⟨-, rfl⟩ | ⟨w, n, -, rfl⟩⟩
  · exact ⟨rfl, rfl⟩
  · exact ⟨rfl, rfl⟩
  · exact runWord_params (s := { s with input := rest }) hrun
  · exact ⟨rfl, rfl⟩
  · exact ⟨rfl, rfl⟩

end Sys2Proof.Machine
end

section
/-! PROOFS. The CSR port, field by field (R39 to R53). -/

namespace Sys2Proof.Machine

/-- A field of a register is named bit by bit. -/
theorem extractLsb'_eq_of_bits {m n start : Nat} {x : BitVec m} {f : BitVec n}
    (h : ∀ k, k < n → x.getLsbD (start + k) = f.getLsbD k) : x.extractLsb' start n = f :=
  BitVec.eq_of_getLsbD_eq fun k hk => by simp [h k hk, hk]

/-- STATUS (R39). -/
theorem statusBits_fields (s : State) :
    s.statusBits.getLsbD 0 = s.fault ∧ s.statusBits.getLsbD 1 = s.active ∧ s.statusBits.getLsbD 2 = s.tileValid ∧
      s.statusBits.getLsbD 3 = s.tileLoading ∧ s.statusBits.extractLsb' 4 28 = 0 := by
  unfold State.statusBits
  generalize s.fault = fault, s.active = active, s.tileValid = valid, s.tileLoading = loading
  revert fault active valid loading
  decide

/-- ERROR (R40). -/
theorem errorBits_fields (s : State) :
    s.errorBits.extractLsb' 0 8 = s.errCode ∧ s.errorBits.extractLsb' 8 8 = s.errOpc ∧
      s.errorBits.extractLsb' 16 8 = s.errInfo ∧ s.errorBits.extractLsb' 24 8 = 0 := by
  refine ⟨?_, ?_, ?_, ?_⟩ <;> refine extractLsb'_eq_of_bits fun k hk => ?_ <;>
    simp only [State.errorBits, BitVec.getLsbD_setWidth, BitVec.getLsbD_append] <;> grind

/-- CONFIG (R43). -/
theorem configBits_fields (s : State) :
    s.configBits.extractLsb' 0 16 = s.w ∧ s.configBits.extractLsb' 16 3 = s.mode.toBits ∧
      s.configBits.extractLsb' 19 5 = 0 ∧ s.configBits.getLsbD 24 = s.atkGe ∧
      s.configBits.getLsbD 25 = s.packLe ∧ s.configBits.extractLsb' 26 6 = 0 := by
  have hbit (k : Nat) : s.configBits.getLsbD k =
      if k < 16 then s.w.getLsbD k
      else if k < 19 then s.mode.toBits.getLsbD (k - 16)
      else if k = 24 then s.atkGe
      else if k = 25 then s.packLe else false := by
    simp only [State.configBits, BitVec.getLsbD_setWidth, BitVec.getLsbD_append, BitVec.getLsbD_ofBool]
    grind
  refine ⟨?_, ?_, ?_, ?_, ?_, ?_⟩
  · exact extractLsb'_eq_of_bits fun k hk => by grind
  · exact extractLsb'_eq_of_bits fun k hk => by grind
  · exact extractLsb'_eq_of_bits fun k hk => by grind
  · grind
  · grind
  · exact extractLsb'_eq_of_bits fun k hk => by grind

/-- PACKER (R50). -/
theorem packerBits_fields (s : State) :
    s.packerBits.extractLsb' 0 8 = s.packAcc ∧ s.packerBits.extractLsb' 8 3 = s.packN ∧
      s.packerBits.extractLsb' 11 21 = 0 := by
  refine ⟨?_, ?_, ?_⟩ <;> refine extractLsb'_eq_of_bits fun k hk => ?_ <;>
    simp only [State.packerBits, BitVec.getLsbD_setWidth, BitVec.getLsbD_append] <;> grind

/-- PAYLOAD (R51). -/
theorem payloadBits_fields (s : State) :
    s.payloadBits.extractLsb' 0 13 = s.payloadLen ∧ s.payloadBits.extractLsb' 13 3 = 0 ∧
      s.payloadBits.extractLsb' 16 13 = s.payloadRows ∧ s.payloadBits.extractLsb' 29 3 = 0 := by
  refine ⟨?_, ?_, ?_, ?_⟩ <;> refine extractLsb'_eq_of_bits fun k hk => ?_ <;>
    simp only [State.payloadBits, BitVec.getLsbD_setWidth, BitVec.getLsbD_append] <;> grind

/-- A 16-bit register reads at [15:0], with zeros above (R46, R48). -/
theorem setWidth_fields (x : BitVec 16) :
    (x.setWidth 32).extractLsb' 0 16 = x ∧ (x.setWidth 32).extractLsb' 16 16 = 0 := by
  refine ⟨?_, ?_⟩ <;> refine extractLsb'_eq_of_bits fun k hk => ?_ <;> simp only [BitVec.getLsbD_setWidth] <;> grind

/-- PARAMS (R52). -/
theorem paramsBits_fields (p : Params) :
    (paramsBits p).extractLsb' 0 16 = BitVec.ofNat 16 p.maxWidth ∧
      (paramsBits p).extractLsb' 16 16 = BitVec.ofNat 16 p.tileMaxSide := by
  refine ⟨?_, ?_⟩ <;> refine extractLsb'_eq_of_bits fun k hk => ?_ <;>
    simp only [paramsBits, BitVec.getLsbD_or, BitVec.getLsbD_shiftLeft, BitVec.getLsbD_setWidth] <;> grind

/-- R53: the indices from 0x0E on hold no register. -/
theorem csrRead_unmapped (s : State) (k : BitVec 8) (h : 0x0E ≤ k.toNat) : csrRead s k = 0 := by
  unfold csrRead
  split
  case h_15 => rfl
  all_goals omega

/-- Settles O49: the layouts of STATUS, ERROR and CONFIG, and the two registers read whole. -/
theorem statusErrorConfigLayout : Obligations.StatusErrorConfigLayout := by
  refine ⟨by decide, fun s => ⟨statusBits_fields s, errorBits_fields s, rfl, rfl, ?_⟩⟩
  obtain ⟨hw, hmode, hzero, hatk, hpack, htop⟩ := configBits_fields s
  refine ⟨hw, fun m hm hs => ?_, hzero, hatk, hpack, htop⟩
  have hnumber : ∀ m ∈ [(Mode.bayer, 0), (.blue, 1), (.fs, 2), (.atk, 3), (.pass, 4)], m.1.toBits = m.2 := by decide
  exact hmode.trans (hs ▸ hnumber m hm)

/-- Settles O50: the layouts of the remaining registers, and zeros past them. -/
theorem positionPayloadParamsLayout : Obligations.PositionPayloadParamsLayout := by
  refine ⟨by decide, fun s => ⟨rfl, rfl, setWidth_fields s.tileSide, rfl, setWidth_fields s.col,
    BitVec.toNat_ofNat _ _, packerBits_fields s, payloadBits_fields s, fun hp => ?_, csrRead_unmapped s⟩⟩
  obtain ⟨-, hwidth, -, hside⟩ := hp
  obtain ⟨hlow, hhigh⟩ := paramsBits_fields s.params
  constructor
  · exact (congrArg BitVec.toNat hlow).trans (Nat.mod_eq_of_lt (by omega))
  · exact (congrArg BitVec.toNat hhigh).trans (Nat.mod_eq_of_lt (by omega))

end Sys2Proof.Machine
end

section
/-! PROOFS. A transport that takes no bytes (R65, R226): a word is held exactly when it would emit. -/

namespace Sys2Proof.Machine

/-- With FAULT = 0 a word that decodes is executed (R95). -/
theorem runWord_of_decode {w : CommandWord} {i : Instr} {s : State} (hfault : s.fault = false)
    (hdecode : decode w = .ok i) : runWord w s = exec i s := by
  simp [runWord, hfault, hdecode]

/-- A held core takes nothing and changes nothing. -/
theorem step_held {s : State} {w : CommandWord} {rest : List HostInput} (hinput : s.input = .command w :: rest)
    (hheld : holds w s = true) : step s = .next s := by
  simp only [step, hinput, takeInput, hheld, if_true]

/-- Under a blocked transport a word is held exactly when running it, taken from the channel, would change OUT. -/
theorem holds_iff_out_ne {s t : State} {w : CommandWord} {rest : List HostInput} (hblocked : s.transportReady = false)
    (hrun : runWord w { s with input := rest } = .next t) : holds w s = true ↔ t.out ≠ s.out := by
  have hout : t.out = s.out ++ emittedBy w s := by
    rw [← emittedBy_withInput w s rest]
    exact runWord_out hrun
  simp [holds, hblocked, hout]

/-- Settles O9: the word is held exactly when it would emit (`holds_iff_out_ne`), and otherwise run. -/
theorem blockedTransportHoldsTheCore : Obligations.BlockedTransportHoldsTheCore := by
  intro s t w rest i hinput hfault hblocked hdecode hexec
  have hrun : runWord w { s with input := rest } = .next t :=
    (runWord_of_decode (s := { s with input := rest }) hfault hdecode).trans hexec
  have hheld := holds_iff_out_ne hblocked hrun
  constructor
  · exact fun hemits => step_held hinput (hheld.mpr hemits)
  · intro hsilent
    have hfree : holds w s = false := by simpa [hsilent] using hheld
    exact (step_command hinput hfree).trans hrun

end Sys2Proof.Machine
end

section
/-! PROOFS. The tile load (R117 to R119, R61): what TLBEGIN, TLDATA and TLEND do when they are accepted, a run of TLDATA
by induction on its bytes, and the loader's whole command list (R123). -/

namespace Sys2Proof.Machine

/-! ## The three commands, accepted -/

/-- TLBEGIN of a legal side from EMPTY (R117). -/
theorem exec_tlbegin_of_empty {s : State} {side : BitVec 16} (hvalid : s.tileValid = false)
    (hloading : s.tileLoading = false) (hone : 1 ≤ side.toNat) (hmax : side.toNat ≤ s.params.tileMaxSide) :
    exec (.tlbegin side) s = .next
      { s with tileSide := side, tileCount := 0, tileLoading := true, cmdCount := s.cmdCount + 1 } := by
  have hlegal : tileSideLegal s.params side = true := tileSideLegal_iff.mpr ⟨hone, hmax⟩
  simp [exec, execTlbegin, hvalid, hloading, hlegal, complete, State.openLoad]

/-- TILE_COUNT does not wrap while a load has room: side² is below 2^32 (R29). -/
theorem tileCount_succ_toNat {s : State} (hroom : s.tileCount.toNat < s.tileArea) :
    (s.tileCount + 1).toNat = s.tileCount.toNat + 1 := by
  have harea : s.tileArea ≤ 65535 * 65535 :=
    Nat.mul_le_mul (Nat.le_of_lt_succ s.tileSide.isLt) (Nat.le_of_lt_succ s.tileSide.isLt)
  bv_omega

/-- TLDATA with a load open and room in it (R118). -/
theorem exec_tldata_of_room {s : State} (d : Byte) (hloading : s.tileLoading = true)
    (hside : s.tileSide.toNat ≤ s.params.tileMaxSide) (hroom : s.tileCount.toNat < s.tileArea) :
    exec (.tldata d) s = .next
      { s with
        tlut := s.tlut.write s.tileCount.toNat d, tileCount := s.tileCount + 1, cmdCount := s.cmdCount + 1 } := by
  have hin : s.tileCount.toNat < tlutSize s.params := lt_of_lt_of_le hroom (area_le_tlutSize hside)
  simp [exec, execTldata, hloading, Nat.ne_of_lt hroom, tileAppend, memWrite, hin, finish, complete]

/-- TLEND with side² bytes in (R119). -/
theorem exec_tlend_of_full {s : State} (hloading : s.tileLoading = true) (hfull : s.tileCount.toNat = s.tileArea) :
    exec .tlend s = .next { s with tileLoading := false, tileValid := true, cmdCount := s.cmdCount + 1 } := by
  simp [exec, execTlend, hloading, hfull, complete, State.closeLoad]

/-! ## Lists of commands -/

theorem execAll_cons {i : Instr} {s t : State} (h : exec i s = .next t) (rest : List Instr) :
    execAll (i :: rest) s = execAll rest t := by
  simp only [execAll, h]

theorem execAll_append {first : List Instr} {s t : State} (h : execAll first s = .next t) (rest : List Instr) :
    execAll (first ++ rest) s = execAll rest t := by
  induction first generalizing s with
  | nil => cases h; rfl
  | cons i first ih =>
    cases hi : exec i s with
    | next u => exact (execAll_cons hi _).trans (ih ((execAll_cons hi first).symm.trans h))
    | fault f => simp [execAll, hi] at h
    | refused r => simp [execAll, hi] at h

/-- From `s` to `t` the bytes `data` have been appended to TLUT, and nothing else of the core but CMD_COUNT has changed. -/
structure TileExtended (s : State) (data : List Byte) (t : State) : Prop where
  frame : t = { s with tlut := t.tlut, tileCount := t.tileCount, cmdCount := t.cmdCount }
  count : t.tileCount.toNat = s.tileCount.toNat + data.length
  /-- What was loaded before stays. -/
  before : ∀ k, k < s.tileCount.toNat → t.tlut.read k = s.tlut.read k
  /-- The bytes stand in order from TILE_COUNT on. -/
  loaded : ∀ k, k < data.length → t.tlut.read (s.tileCount.toNat + k) = data[k]?

/-- A run of TLDATA that fits the open load completes, and appends its bytes (R118, R61). -/
theorem execAll_tldata {data : List Byte} {s : State} (hloading : s.tileLoading = true)
    (hside : s.tileSide.toNat ≤ s.params.tileMaxSide) (hfits : s.tileCount.toNat + data.length ≤ s.tileArea) :
    ∃ t, execAll (data.map Instr.tldata) s = .next t ∧ TileExtended s data t := by
  induction data generalizing s with
  | nil => exact ⟨s, rfl, rfl, rfl, fun _ _ => rfl, fun k hk => absurd hk (Nat.not_lt_zero k)⟩
  | cons d data ih =>
    rw [List.length_cons] at hfits
    have hroom : s.tileCount.toNat < s.tileArea := by omega
    have hsucc : (s.tileCount + 1).toNat = s.tileCount.toNat + 1 := tileCount_succ_toNat hroom
    have hrest : (s.tileCount + 1).toNat + data.length ≤ s.tileArea := by omega
    have hd := exec_tldata_of_room d hloading hside hroom
    obtain ⟨t, hrun, hframe, hcount, hbefore, hloaded⟩ := ih (s := { s with
      tlut := s.tlut.write s.tileCount.toNat d, tileCount := s.tileCount + 1, cmdCount := s.cmdCount + 1 })
      hloading hside hrest
    simp only [hsucc] at hcount hbefore hloaded
    refine ⟨t, (execAll_cons hd _).trans hrun, hframe, ?_, fun k hk => ?_, fun k hk => ?_⟩
    · rw [hcount, List.length_cons]
      omega
    · rw [hbefore k (by omega), Memory.read_write_other _ _ (by omega)]
    · cases k with
      | zero => rw [Nat.add_zero, hbefore _ (Nat.lt_succ_self _), Memory.read_write_same]; rfl
      | succ k =>
        rw [← Nat.add_assoc, Nat.add_right_comm, hloaded k (by simpa using hk), List.getElem?_cons_succ]

/-! ## The loader (R123) -/

/-- What the loader sends, and that it sends it only for a square asset. -/
theorem loaderCommands_eq_some_iff {asset : List (List Byte)} {cmds : List Instr} :
    loaderCommands asset = some cmds ↔
      (∀ row ∈ asset, row.length = asset.length) ∧ asset.length < 65536 ∧
        cmds = .tlbegin (BitVec.ofNat 16 asset.length) :: (asset.flatten.map Instr.tldata ++ [.tlend]) := by
  simp only [loaderCommands, Option.ite_none_right_eq_some, List.all_eq_true, beq_iff_eq, Option.some.injEq,
    List.cons_append, eq_comm (a := cmds)]

section Rows
variable {α : Type} {rows : List (List α)} {n : Nat}

/-- Rows of `n` elements hold `n` for each row. -/
theorem length_flatten_of_rows (h : ∀ row ∈ rows, row.length = n) : rows.flatten.length = rows.length * n := by
  have hmap : rows.map List.length = List.replicate rows.length n := by
    simpa using List.map_congr_left (g := fun _ => n) h
  rw [List.length_flatten, hmap, List.sum_replicate_nat]

/-- Row-major order: element `c` of row `r` stands at `r * n + c`. -/
theorem getElem?_flatten_of_rows (h : ∀ row ∈ rows, row.length = n) {r c : Nat} (hc : c < n) :
    rows.flatten[r * n + c]? = rows[r]?.bind fun row => row[c]? := by
  induction rows generalizing r with
  | nil => simp
  | cons row rows ih =>
    obtain ⟨hrow, hrows⟩ := List.forall_mem_cons.mp h
    cases r with
    | zero => simp [List.getElem?_append, hrow, hc]
    | succ r =>
      have hpast : row.length ≤ (r + 1) * n + c := by rw [hrow, Nat.succ_mul]; omega
      have hrest : (r + 1) * n + c - row.length = r * n + c := by rw [hrow, Nat.succ_mul]; omega
      rw [List.flatten_cons, List.getElem?_append_right hpast, hrest, ih hrows, List.getElem?_cons_succ]

end Rows

/-- Settles O26: TLBEGIN opens the load, the bytes fill it in row-major order (`execAll_tldata`), and TLEND closes it. -/
theorem loaderFillsTileRowMajor : Obligations.LoaderFillsTileRowMajor := by
  intro s asset cmds _ hvalid hloading hone hmax hcmds
  obtain ⟨hsquare, hsmall, rfl⟩ := loaderCommands_eq_some_iff.mp hcmds
  have hside : (BitVec.ofNat 16 asset.length).toNat = asset.length := Nat.mod_eq_of_lt hsmall
  have hlength : asset.flatten.length = asset.length * asset.length := length_flatten_of_rows hsquare
  have hbegin := exec_tlbegin_of_empty (side := BitVec.ofNat 16 asset.length) hvalid hloading
    (hone.trans_eq hside.symm) (hside.trans_le hmax)
  obtain ⟨t, hdata, hframe, hcount, -, hloaded⟩ := execAll_tldata (data := asset.flatten)
    (s := { s with
      tileSide := BitVec.ofNat 16 asset.length, tileCount := 0, tileLoading := true, cmdCount := s.cmdCount + 1 })
    rfl (hside.trans_le hmax) (by simp [State.tileArea, hside, hlength])
  replace hcount : t.tileCount.toNat = asset.length * asset.length := by simpa [hlength] using hcount
  have htside : t.tileSide.toNat = asset.length := by rw [hframe]; exact hside
  have hend := exec_tlend_of_full (s := t) (by rw [hframe]) (by rw [hcount, State.tileArea, htside])
  refine ⟨_, (execAll_cons hbegin _).trans ((execAll_append hdata _).trans (execAll_cons hend [])), ?_, htside, hcount,
    fun r c hr hc => ?_⟩
  · rw [hframe, ← hloading]
  · have hk : r * asset.length + c < asset.flatten.length := by
      rw [hlength]
      nlinarith
    calc t.tlut.read (r * asset.length + c)
      _ = asset.flatten[r * asset.length + c]? := by simpa using hloaded _ hk
      _ = asset[r]?.bind fun row => row[c]? := getElem?_flatten_of_rows hsquare hc

end Sys2Proof.Machine
end

section
/-! PROOFS. The encoding (30_encoding.md): a word decodes to a command exactly when its three fields are those of the
command (`decode_eq_ok_iff`), and a command keeps exactly the operand bits that are not must-be-zero
(`operand_assemble`). -/

namespace Sys2Proof.Machine

/-! ## Opcodes (R80) -/

/-- No two opcodes share their bits, so the map read backwards finds each. -/
theorem opcode_ofBits_bits (o : Opcode) : Opcode.ofBits o.bits = some o := by cases o <;> rfl

theorem opcode_ofBits_eq_some_iff {b : BitVec 8} {o : Opcode} : Opcode.ofBits b = some o ↔ o.bits = b := by
  constructor
  · intro h
    simpa using List.find?_some h
  · rintro rfl
    exact opcode_ofBits_bits o

theorem opcode_ofBits_eq_none_iff {b : BitVec 8} : Opcode.ofBits b = none ↔ ∀ o : Opcode, o.bits ≠ b := by
  rw [Option.eq_none_iff_forall_ne_some]
  exact forall_congr' fun o => not_congr opcode_ofBits_eq_some_iff

/-! ## Operands (R81, R83) -/

@[simp] theorem opcode_assemble (o : Opcode) (x : BitVec 32) : (o.assemble x).opcode = o := by cases o <;> rfl

/-- A command is read back from its operand bits. -/
theorem assemble_operand (i : Instr) : i.opcode.assemble i.operand = i := by
  cases i with
  | setw w => simp [Instr.opcode, Instr.operand, Opcode.assemble, BitVec.extractLsb'_setWidth_of_le]
  | setmode m => simp [Instr.opcode, Instr.operand, Opcode.assemble, BitVec.extractLsb'_setWidth_of_le]
  | setcmp atkGe packLe => cases atkGe <;> cases packLe <;> rfl
  | tlbegin side => simp [Instr.opcode, Instr.operand, Opcode.assemble, BitVec.extractLsb'_setWidth_of_le]
  | tldata d => simp [Instr.opcode, Instr.operand, Opcode.assemble, BitVec.extractLsb'_setWidth_of_le]
  | pix v last =>
    have hsample : ((BitVec.ofBool last ++ v).setWidth 32).extractLsb' 0 8 = v := by
      rw [BitVec.extractLsb'_setWidth_of_le (by decide)]
      exact BitVec.extractLsb'_append_eq_right
    have hlast : ((BitVec.ofBool last ++ v).setWidth 32).getLsbD 8 = last := by
      simp only [BitVec.getLsbD_setWidth, BitVec.getLsbD_append]
      simp
    simp only [Instr.opcode, Instr.operand, Opcode.assemble, hsample, hlast]
  | _ => rfl

/-- The low `n` bits of an operand, widened again, are the operand with the other bits cleared. -/
theorem setWidth_extractLsb'_low (x : BitVec 32) (n : Nat) :
    (x.extractLsb' 0 n).setWidth 32 = x &&& BitVec.ofNat 32 (2 ^ n - 1) := by
  apply BitVec.eq_of_getLsbD_eq
  intro k hk
  simp only [BitVec.getLsbD_setWidth, BitVec.getLsbD_extractLsb', BitVec.getLsbD_and, BitVec.getLsbD_ofNat, hk,
    Nat.testBit_two_pow_sub_one, decide_true, Bool.true_and, Nat.zero_add, Bool.and_comm]

/-- The low bits of an operand and the bit above them. -/
theorem ofBool_append_extractLsb'_low (x : BitVec 32) (n : Nat) :
    BitVec.ofBool (x.getLsbD n) ++ x.extractLsb' 0 n = x.extractLsb' 0 (1 + n) := by
  apply BitVec.eq_of_getLsbD_eq
  intro k hk
  simp only [BitVec.getLsbD_append, BitVec.getLsbD_extractLsb', BitVec.getLsbD_ofBool]
  grind

/-- A command keeps exactly the operand bits that are not must-be-zero. -/
theorem operand_assemble (o : Opcode) (x : BitVec 32) : (o.assemble x).operand = x &&& ~~~o.mbz := by
  cases o with
  | setw => exact setWidth_extractLsb'_low x 16
  | setmode => exact setWidth_extractLsb'_low x 3
  | setcmp =>
    have hlow : BitVec.ofBool (x.getLsbD 0) = x.extractLsb' 0 1 := by simpa using ofBool_append_extractLsb'_low x 0
    simp only [Opcode.assemble, Instr.operand, hlow, ofBool_append_extractLsb'_low x 1]
    exact setWidth_extractLsb'_low x 2
  | setfw => exact BitVec.and_allOnes.symm
  | setfh => exact BitVec.and_allOnes.symm
  | tlbegin => exact setWidth_extractLsb'_low x 16
  | tldata => exact setWidth_extractLsb'_low x 8
  | pix =>
    simp only [Opcode.assemble, Instr.operand, ofBool_append_extractLsb'_low x 8]
    exact setWidth_extractLsb'_low x 9
  | _ => exact BitVec.and_zero.symm

/-- Nothing is lost from an operand that passes check 3. -/
theorem operand_assemble_of_mbz {o : Opcode} {x : BitVec 32} (h : x &&& o.mbz = 0) : (o.assemble x).operand = x := by
  calc (o.assemble x).operand
    _ = (x &&& o.mbz) ||| (x &&& ~~~o.mbz) := by rw [operand_assemble, h]; exact BitVec.zero_or.symm
    _ = x := by rw [← BitVec.and_or_distrib_left, BitVec.or_not_self, BitVec.and_allOnes]

/-! ## Words (R78, R79, R82, R83) -/

/-- R78, R83 for every command: the encoder's layout. -/
theorem encodingLayout (i : Instr) : Laws.EncodingLayout.Statement i := by
  cases i with
  | nop => exact Laws.EncodingLayout.nop
  | srst => exact Laws.EncodingLayout.srst
  | setw w => exact Laws.EncodingLayout.setw w
  | setmode m => exact Laws.EncodingLayout.setmode m
  | setcmp atkGe packLe => exact Laws.EncodingLayout.setcmp atkGe packLe
  | setfw v => exact Laws.EncodingLayout.setfw v
  | setfh v => exact Laws.EncodingLayout.setfh v
  | tlbegin side => exact Laws.EncodingLayout.tlbegin side
  | tldata d => exact Laws.EncodingLayout.tldata d
  | tlend => exact Laws.EncodingLayout.tlend
  | start => exact Laws.EncodingLayout.start
  | pix v last => exact Laws.EncodingLayout.pix v last
  | endStream => exact Laws.EncodingLayout.endStream
  | build => exact Laws.EncodingLayout.build
  | builda => exact Laws.EncodingLayout.builda

/-- Two words with the same three fields are one word (R78). -/
theorem word_ext_fields {v w : CommandWord} (hopc : opcField v = opcField w) (hrsv : rsvField v = rsvField w)
    (hoperand : operandField v = operandField w) : v = w := by
  rw [word_eq_fields v, hopc, hrsv, hoperand, ← word_eq_fields w]

/-- Check 1 of R79. -/
theorem decode_of_unknownOpcode {w : CommandWord} (h : ∀ o : Opcode, o.bits ≠ opcField w) :
    decode w = .error .unknownOpcode := by
  simp only [decode, opcode_ofBits_eq_none_iff.mpr h]

section KnownOpcode
variable {w : CommandWord} {o : Opcode} (hopc : o.bits = opcField w)
include hopc

/-- Check 2 of R79. -/
theorem decode_of_reservedBits (hrsv : rsvField w ≠ 0) : decode w = .error .reservedBits := by
  simp only [decode, opcode_ofBits_eq_some_iff.mpr hopc, if_pos hrsv]

/-- Check 3 of R79. -/
theorem decode_of_operandBits (hrsv : rsvField w = 0) (hmbz : operandField w &&& o.mbz ≠ 0) :
    decode w = .error .operandBits := by
  simp only [decode, opcode_ofBits_eq_some_iff.mpr hopc, if_neg (not_not.mpr hrsv), if_pos hmbz]

/-- A word that passes checks 1 to 3. -/
theorem decode_of_fields (hrsv : rsvField w = 0) (hmbz : operandField w &&& o.mbz = 0) :
    decode w = .ok (o.assemble (operandField w)) := by
  simp only [decode, opcode_ofBits_eq_some_iff.mpr hopc, if_neg (not_not.mpr hrsv), if_neg (not_not.mpr hmbz)]

end KnownOpcode

/-- A word decodes to a command exactly when it passes checks 1 to 3 and its operand reads as the command's. -/
theorem decode_eq_ok_iff {w : CommandWord} {i : Instr} :
    decode w = .ok i ↔ i.opcode.bits = opcField w ∧ rsvField w = 0 ∧ operandField w &&& i.opcode.mbz = 0 ∧
      i.opcode.assemble (operandField w) = i := by
  constructor
  · intro h
    obtain ⟨hopc, hrsv, hmbz⟩ := decode_ok_fields h
    have hi := (decode_of_fields hopc.symm hrsv hmbz).symm.trans h
    exact ⟨hopc.symm, hrsv, hmbz, Except.ok.inj hi⟩
  · rintro ⟨hopc, hrsv, hmbz, hi⟩
    rw [decode_of_fields hopc hrsv hmbz, hi]

/-- Settles O1: the encoder's layout passes checks 1 to 3, and the operand reads back. -/
theorem decodeInvertsEncode : Obligations.DecodeInvertsEncode := by
  intro i
  obtain ⟨hopc, hrsv, hoperand, hmbz⟩ := encodingLayout i
  exact decode_eq_ok_iff.mpr ⟨hopc.symm, hrsv, by rw [hoperand, hmbz], by rw [hoperand, assemble_operand]⟩

/-- Settles O2: the command's word has the three fields of the word decoded, the operand because no bit is lost. -/
theorem encodeInvertsDecode : Obligations.EncodeInvertsDecode := by
  intro w i h
  obtain ⟨hopc, hrsv, hmbz, hi⟩ := decode_eq_ok_iff.mp h
  obtain ⟨hopc', hrsv', hoperand', -⟩ := encodingLayout i
  refine word_ext_fields (hopc'.trans hopc) (hrsv'.trans hrsv.symm) (hoperand'.trans ?_)
  calc i.operand
    _ = (i.opcode.assemble (operandField w)).operand := by rw [hi]
    _ = operandField w := operand_assemble_of_mbz hmbz

/-- Settles O4, by running the decoder on each word. -/
theorem specWordsDecode : Obligations.SpecWordsDecode := by
  unfold Obligations.SpecWordsDecode
  decide

/-! ## Masks (R83) -/

/-- The table R83 prints is the one the must-be-zero masks and the opcode map give. -/
theorem maskTable_eq : maskTable = Opcode.all.map fun o => (o, o.mask, o.matchWord) := by decide

/-- The rows of R83's table are those of the opcodes, one for each. -/
theorem mem_maskTable_iff {row : Opcode × CommandWord × CommandWord} :
    row ∈ maskTable ↔ ∃ o : Opcode, row = (o, o.mask, o.matchWord) := by
  have hall (o : Opcode) : o ∈ Opcode.all := by cases o <;> decide
  simp only [maskTable_eq, List.mem_map, hall, true_and, eq_comm]

theorem opcField_and (v w : CommandWord) : opcField (v &&& w) = opcField v &&& opcField w := BitVec.extractLsb'_and

theorem rsvField_and (v w : CommandWord) : rsvField (v &&& w) = rsvField v &&& rsvField w := BitVec.extractLsb'_and

theorem operandField_and (v w : CommandWord) : operandField (v &&& w) = operandField v &&& operandField w :=
  BitVec.extractLsb'_and

/-- The mask of R83 keeps OPC and RSV whole, and of OPERAND the must-be-zero bits. -/
theorem opcode_mask_fields (o : Opcode) :
    opcField o.mask = BitVec.allOnes 8 ∧ rsvField o.mask = BitVec.allOnes 24 ∧ operandField o.mask = o.mbz := by
  cases o <;> decide

/-- The match of R83: the opcode, and zeros. -/
theorem opcode_matchWord_fields (o : Opcode) :
    opcField o.matchWord = o.bits ∧ rsvField o.matchWord = 0 ∧ operandField o.matchWord = 0 := by
  cases o <;> decide

/-- A word under the mask is the match exactly when it passes checks 1 to 3 of R79 with that opcode. -/
theorem and_mask_eq_matchWord_iff {w : CommandWord} {o : Opcode} :
    w &&& o.mask = o.matchWord ↔ o.bits = opcField w ∧ rsvField w = 0 ∧ operandField w &&& o.mbz = 0 := by
  obtain ⟨hopc, hrsv, hoperand⟩ := opcode_mask_fields o
  obtain ⟨hopc', hrsv', hoperand'⟩ := opcode_matchWord_fields o
  have hopcAnd : opcField (w &&& o.mask) = opcField w := by rw [opcField_and, hopc, BitVec.and_allOnes]
  have hrsvAnd : rsvField (w &&& o.mask) = rsvField w := by rw [rsvField_and, hrsv, BitVec.and_allOnes]
  have hoperandAnd : operandField (w &&& o.mask) = operandField w &&& o.mbz := by rw [operandField_and, hoperand]
  constructor
  · intro h
    rw [h] at hopcAnd hrsvAnd hoperandAnd
    exact ⟨hopc'.symm.trans hopcAnd, hrsvAnd.symm.trans hrsv', hoperandAnd.symm.trans hoperand'⟩
  · rintro ⟨h1, h2, h3⟩
    exact word_ext_fields (hopcAnd.trans (h1.symm.trans hopc'.symm)) (hrsvAnd.trans (h2.trans hrsv'.symm))
      (hoperandAnd.trans (h3.trans hoperand'.symm))

/-- A field at the low end of a word is read from its operand. -/
theorem extractLsb'_operandField (w : CommandWord) {n : Nat} (hn : n ≤ 32) :
    (operandField w).extractLsb' 0 n = w.extractLsb' 0 n :=
  BitVec.extractLsb'_extractLsb'_of_le (by omega)

/-- Check 4 of R79 on the operand of a word: only SETW and SETMODE have illegal values. -/
theorem wellFormed_assemble_iff {p : Params} {o : Opcode} {w : CommandWord} :
    (o.assemble (operandField w)).wellFormed p = true ↔
      (o = .setw → 1 ≤ (w.extractLsb' 0 16).toNat ∧ (w.extractLsb' 0 16).toNat ≤ p.maxWidth) ∧
      (o = .setmode → (w.extractLsb' 0 3).toNat ≤ 4) := by
  cases o <;> simp [Opcode.assemble, Instr.wellFormed, extractLsb'_operandField]

/-- Settles O3: mask and match are checks 1 to 3 (`and_mask_eq_matchWord_iff`), and legality is check 4. -/
theorem wordIsCommandExactlyOnMaskMatch : Obligations.WordIsCommandExactlyOnMaskMatch := by
  intro p w row hrow
  obtain ⟨o, rfl⟩ := mem_maskTable_iff.mp hrow
  constructor
  · rintro ⟨i, hdecode, hopcode, hlegal⟩
    obtain ⟨hopc, hrsv, hmbz, hi⟩ := decode_eq_ok_iff.mp hdecode
    obtain rfl : i.opcode = o := hopcode
    exact ⟨and_mask_eq_matchWord_iff.mpr ⟨hopc, hrsv, hmbz⟩, wellFormed_assemble_iff.mp (by rwa [hi])⟩
  · rintro ⟨hmask, hlegal⟩
    obtain ⟨hopc, hrsv, hmbz⟩ := and_mask_eq_matchWord_iff.mp hmask
    exact ⟨_, decode_of_fields hopc hrsv hmbz, opcode_assemble _ _, wellFormed_assemble_iff.mpr hlegal⟩

/-! ## The decode checks in a step (R79, R205) -/

/-- A word whose run leaves OUT as it was is never held: the step takes it and runs it, whatever the transport. -/
theorem step_of_silent {s t : State} {w : CommandWord} {rest : List HostInput} (hinput : s.input = .command w :: rest)
    (hrun : runWord w { s with input := rest } = .next t) (hout : t.out = s.out) : step s = .next t := by
  have hfree : holds w s = false := by
    cases hready : s.transportReady with
    | true => exact holds_of_ready w hready
    | false => simpa [hout] using holds_iff_out_ne hready hrun
  rw [step_command hinput hfree, hrun]

/-- The fault record of R205 for ILLEGAL_COMMAND. -/
theorem raise_illegalCommand (opc info : BitVec 8) (s : State) :
    raise opc .illegalCommand info s = .next (faulted s opc 6 info) := rfl

section FaultingWord
variable {s : State} {w : CommandWord} {rest : List HostInput} (hinput : s.input = .command w :: rest)
  (hfault : s.fault = false)
include hinput hfault

/-- A word that fails one of checks 1 to 3 takes ILLEGAL_COMMAND with the number of that check. -/
theorem step_of_decode_error {e : DecodeError} (h : decode w = .error e) :
    step s = .next (faulted { s with input := rest } (opcField w) 6 e.info) :=
  step_of_silent hinput (by simp only [runWord, hfault, h]; exact raise_illegalCommand _ _ _) rfl

/-- A word whose command raises ILLEGAL_COMMAND takes that fault. -/
theorem step_of_exec_illegal {i : Instr} {info : BitVec 8} (hdecode : decode w = .ok i)
    (h : exec i { s with input := rest } = raise i.opcode.bits .illegalCommand info { s with input := rest }) :
    step s = .next (faulted { s with input := rest } (opcField w) 6 info) := by
  obtain ⟨hopc, -, -⟩ := decode_ok_fields hdecode
  refine step_of_silent hinput ?_ rfl
  rw [runWord_of_decode (s := { s with input := rest }) hfault hdecode, h, ← hopc]
  rfl

end FaultingWord

/-- Check 4 for SETW (R92). -/
theorem exec_setw_illegal {v : BitVec 16} {s : State} (h : ¬(1 ≤ v.toNat ∧ v.toNat ≤ s.params.maxWidth)) :
    exec (.setw v) s = raise Opcode.setw.bits .illegalCommand 4 s := by
  have hlegal : widthLegal s.params v = false := by simpa using mt widthLegal_iff.mp h
  simp [exec, execSetw, hlegal]

/-- Check 4 for SETMODE (R93). -/
theorem exec_setmode_illegal {m : BitVec 3} (h : 4 < m.toNat) (s : State) :
    exec (.setmode m) s = raise Opcode.setmode.bits .illegalCommand 4 s := by
  have hmode : Mode.ofBits m = none := by
    rw [← Option.not_isSome_iff_eq_none, mode_ofBits_isSome_eq_wellFormed s.params]
    simpa [Instr.wellFormed] using h
  simp only [exec, execSetmode, hmode]

/-- Settles O5: each clause is one check of R79 failing, the checks before it passed. -/
theorem decodeChecksRaiseInOrder : Obligations.DecodeChecksRaiseInOrder := by
  intro s w rest hinput hfault
  refine ⟨fun hopc => step_of_decode_error hinput hfault (decode_of_unknownOpcode fun o => ?_), fun row hrow => ?_⟩
  · rw [← (opcode_matchWord_fields o).1]
    exact hopc (o, o.mask, o.matchWord) (mem_maskTable_iff.mpr ⟨o, rfl⟩)
  obtain ⟨o, rfl⟩ := mem_maskTable_iff.mp hrow
  intro hopc
  replace hopc : o.bits = opcField w := (opcode_matchWord_fields o).1.symm.trans hopc
  refine ⟨fun hrsv => ?_, fun hrsv hmbz => ?_, fun hmask ho hillegal => ?_, fun hmask ho hillegal => ?_⟩
  · exact step_of_decode_error hinput hfault (decode_of_reservedBits hopc hrsv)
  · have hoperand : operandField w &&& o.mbz ≠ 0 := by
      rwa [← (opcode_mask_fields o).2.2, ← operandField_and]
    exact step_of_decode_error hinput hfault (decode_of_operandBits hopc hrsv hoperand)
  · obtain ⟨-, hrsv, hmbz⟩ := and_mask_eq_matchWord_iff.mp hmask
    cases ho
    refine step_of_exec_illegal hinput hfault (decode_of_fields hopc hrsv hmbz) (exec_setw_illegal ?_)
    rwa [extractLsb'_operandField w (by decide)]
  · obtain ⟨-, hrsv, hmbz⟩ := and_mask_eq_matchWord_iff.mp hmask
    cases ho
    refine step_of_exec_illegal hinput hfault (decode_of_fields hopc hrsv hmbz) (exec_setmode_illegal ?_ _)
    rwa [extractLsb'_operandField w (by decide)]

end Sys2Proof.Machine
end

section
/-! PROOFS. The assembler (R85, R86): each form that carries a value is accepted exactly when the numbers written are the
values of its fields. One lemma per form; the field and list readers' own lemmas stand in Laws/Assembler.lean. -/

namespace Sys2Proof.Machine

/-! ## The forms of R85 -/

section Forms
variable {p : Params} {is : List Instr} {u v : Int}

/-- A form of one unsigned field, with no range beside it. -/
theorem map_unsignedField_eq_some_iff {n : Nat} {c : BitVec n → Instr} :
    ((unsignedField n v).map fun x => [c x]) = some is ↔ ∃ x : BitVec n, (x.toNat : Int) = v ∧ is = [c x] := by
  simp only [Option.map_eq_some_iff, unsignedField_eq_some_iff, eq_comm (a := is)]

/-- A form of one signed field. -/
theorem map_signedField_eq_some_iff {c : BitVec 32 → Instr} :
    ((signedField v).map fun x => [c x]) = some is ↔ ∃ x : BitVec 32, x.toInt = v ∧ is = [c x] := by
  simp only [Option.map_eq_some_iff, signedField_eq_some_iff, eq_comm (a := is)]

/-- A form of one unsigned field whose command must pass check 4 of R79. -/
theorem bind_wellFormed_eq_some_iff {n : Nat} {c : BitVec n → Instr} :
    (((unsignedField n v).map c).bind fun i => if i.wellFormed p then some [i] else none) = some is ↔
      ∃ x : BitVec n, (x.toNat : Int) = v ∧ (c x).wellFormed p = true ∧ is = [c x] := by
  simp only [Option.bind_eq_some_iff, Option.map_eq_some_iff, unsignedField_eq_some_iff, Option.ite_none_right_eq_some,
    Option.some.injEq, eq_comm (a := is)]
  constructor
  · rintro ⟨i, ⟨x, hx, rfl⟩, h⟩; exact ⟨x, hx, h⟩
  · rintro ⟨x, hx, h⟩; exact ⟨c x, ⟨x, hx, rfl⟩, h⟩

theorem assembleForm_setw_iff :
    assembleForm p "SETW" [v] = some is ↔
      ∃ w : BitVec 16, (w.toNat : Int) = v ∧ 1 ≤ w.toNat ∧ w.toNat ≤ p.maxWidth ∧ is = [.setw w] := by
  refine bind_wellFormed_eq_some_iff.trans ?_
  simp only [Instr.wellFormed, Bool.and_eq_true, decide_eq_true_eq, and_assoc]

theorem assembleForm_setmode_iff :
    assembleForm p "SETMODE" [v] = some is ↔ ∃ m : BitVec 3, (m.toNat : Int) = v ∧ m.toNat ≤ 4 ∧ is = [.setmode m] := by
  refine bind_wellFormed_eq_some_iff.trans ?_
  simp only [Instr.wellFormed, decide_eq_true_eq]

theorem assembleForm_setcmp_iff :
    assembleForm p "SETCMP" [u, v] = some is ↔
      ∃ atkGe packLe : Bool, (atkGe.toNat : Int) = u ∧ (packLe.toNat : Int) = v ∧ is = [.setcmp atkGe packLe] := by
  simp only [← bitField_eq_some_iff, assembleForm]
  split
  · next a b ha hb => simp [ha, hb, eq_comm]
  · next hnone =>
    constructor
    · intro h; cases h
    · rintro ⟨a, b, ha, hb, -⟩; exact (hnone a b ha hb).elim

theorem assembleForm_setfw_iff :
    assembleForm p "SETFW" [v] = some is ↔ ∃ x : BitVec 32, x.toInt = v ∧ is = [.setfw x] :=
  map_signedField_eq_some_iff

theorem assembleForm_setfh_iff :
    assembleForm p "SETFH" [v] = some is ↔ ∃ x : BitVec 32, x.toInt = v ∧ is = [.setfh x] :=
  map_signedField_eq_some_iff

theorem assembleForm_tlbegin_iff :
    assembleForm p "TLBEGIN" [v] = some is ↔
      ∃ side : BitVec 16, (side.toNat : Int) = v ∧ 1 ≤ side.toNat ∧ side.toNat ≤ p.tileMaxSide ∧
        is = [.tlbegin side] := by
  simp only [assembleForm, Option.ite_none_right_eq_some, map_unsignedField_eq_some_iff]
  constructor
  · rintro ⟨hrange, side, rfl, rfl⟩; exact ⟨side, rfl, by omega, by omega, rfl⟩
  · rintro ⟨side, rfl, hone, hmax, rfl⟩; exact ⟨by omega, side, rfl, rfl⟩

theorem assembleForm_tldata_iff :
    assembleForm p "TLDATA" [v] = some is ↔ ∃ d : Byte, (d.toNat : Int) = v ∧ is = [.tldata d] :=
  map_unsignedField_eq_some_iff

/-- PIX and PIXL differ in the last bit only. -/
theorem map_pixOf_eq_some_iff {last : Bool} :
    ((pixOf last v).map fun i => [i]) = some is ↔ ∃ d : Byte, (d.toNat : Int) = v ∧ is = [.pix d last] := by
  rw [pixOf, Option.map_map]
  exact map_unsignedField_eq_some_iff (c := fun d => .pix d last)

theorem assembleForm_pix_iff :
    assembleForm p "PIX" [v] = some is ↔ ∃ d : Byte, (d.toNat : Int) = v ∧ is = [.pix d false] :=
  map_pixOf_eq_some_iff

theorem assembleForm_pixl_iff :
    assembleForm p "PIXL" [v] = some is ↔ ∃ d : Byte, (d.toNat : Int) = v ∧ is = [.pix d true] :=
  map_pixOf_eq_some_iff

/-! ## The pseudo-instructions of R86 -/

theorem assembleForm_setframe_iff :
    assembleForm p "SETFRAME" [u, v] = some is ↔
      ∃ w h : BitVec 32, w.toInt = u ∧ h.toInt = v ∧ is = [.setfw w, .setfh h] := by
  simp only [← signedField_eq_some_iff, assembleForm, setFrame]
  split
  · next a b ha hb => simp [ha, hb, eq_comm]
  · next hnone =>
    constructor
    · intro h; cases h
    · rintro ⟨a, b, ha, hb, -⟩; exact (hnone a b ha hb).elim

theorem assembleForm_rowpix_iff {ops : List Int} :
    assembleForm p "ROWPIX" ops = some is ↔
      ∃ samples : List Byte, samples.map (fun b => (b.toNat : Int)) = ops ∧ samples ≠ [] ∧ is = rowCommands samples :=
  rowPix_eq_some_iff

theorem tileLoad_eq_some_iff {data : List Int} :
    tileLoad v data = some is ↔
      ∃ (side : BitVec 16) (bytes : List Byte), (side.toNat : Int) = v ∧ bytes.map (fun b => (b.toNat : Int)) = data ∧
        bytes.length = side.toNat * side.toNat ∧ is = .tlbegin side :: bytes.map Instr.tldata ++ [.tlend] := by
  constructor
  · intro h
    unfold tileLoad at h
    split at h
    · next side cmds hside hcmds =>
      obtain ⟨bytes, rfl, rfl⟩ := tileDatas_eq_some_iff.mp hcmds
      obtain ⟨hlength, his⟩ := Option.ite_none_right_eq_some.mp h
      exact ⟨side, bytes, unsignedField_eq_some_iff.mp hside, rfl, by simpa using hlength, (Option.some.inj his).symm⟩
    · cases h
  · rintro ⟨side, bytes, hside, hbytes, hlength, rfl⟩
    have hcount : data.length = side.toNat * side.toNat := by rw [← hbytes, List.length_map, hlength]
    simp only [tileLoad, unsignedField_eq_some_iff.mpr hside, tileDatas_eq_some_iff.mpr ⟨bytes, hbytes, rfl⟩, hcount,
      if_true]

theorem assembleForm_tload_iff {ops : List Int} :
    assembleForm p "TLOAD" ops = some is ↔
      ∃ (side : BitVec 16) (data : List Byte), (side.toNat : Int) :: data.map (fun b => (b.toNat : Int)) = ops ∧
        1 ≤ side.toNat ∧ side.toNat ≤ p.tileMaxSide ∧ data.length = side.toNat * side.toNat ∧
        is = .tlbegin side :: data.map Instr.tldata ++ [.tlend] := by
  cases ops with
  | nil =>
    constructor
    · intro h; cases h
    · rintro ⟨side, data, hops, -⟩; cases hops
  | cons v data =>
    simp only [assembleForm, Option.ite_none_right_eq_some, tileLoad_eq_some_iff, List.cons.injEq]
    constructor
    · rintro ⟨hrange, side, bytes, rfl, hbytes, h⟩
      exact ⟨side, bytes, ⟨rfl, hbytes⟩, by omega, by omega, h⟩
    · rintro ⟨side, bytes, ⟨rfl, hbytes⟩, hone, hmax, h⟩
      exact ⟨by omega, side, bytes, rfl, hbytes, h⟩

/-! ## What is accepted is legal -/

theorem rowCommands_wellFormed (samples : List Byte) : ∀ i ∈ rowCommands samples, i.wellFormed p = true := by
  induction samples using rowCommands.induct with
  | case1 => exact List.forall_mem_nil _
  | case2 v => exact List.forall_mem_singleton.mpr rfl
  | case3 v w rest ih => exact List.forall_mem_cons.mpr ⟨rfl, ih⟩

theorem loadCommands_wellFormed (side : BitVec 16) (data : List Byte) :
    ∀ i ∈ .tlbegin side :: data.map Instr.tldata ++ [.tlend], i.wellFormed p = true := by
  have hdata : ∀ i ∈ data.map Instr.tldata, i.wellFormed p = true := List.forall_mem_map.mpr fun _ _ => rfl
  exact List.forall_mem_cons.mpr ⟨rfl, List.forall_mem_append.mpr ⟨hdata, List.forall_mem_singleton.mpr rfl⟩⟩

/-- Every command of an accepted form passes check 4 of R79. -/
theorem assembleForm_wellFormed {name : String} {ops : List Int} (h : assembleForm p name ops = some is) :
    ∀ i ∈ is, i.wellFormed p = true := by
  unfold assembleForm at h
  split at h
  · cases h; exact List.forall_mem_singleton.mpr rfl
  · cases h; exact List.forall_mem_singleton.mpr rfl
  · obtain ⟨w, -, hlegal, rfl⟩ := bind_wellFormed_eq_some_iff.mp h; simpa using hlegal
  · obtain ⟨m, -, hlegal, rfl⟩ := bind_wellFormed_eq_some_iff.mp h; simpa using hlegal
  · obtain ⟨atkGe, packLe, -, -, rfl⟩ := (assembleForm_setcmp_iff (p := p)).mp h; exact List.forall_mem_singleton.mpr rfl
  · obtain ⟨x, -, rfl⟩ := map_signedField_eq_some_iff.mp h; exact List.forall_mem_singleton.mpr rfl
  · obtain ⟨x, -, rfl⟩ := map_signedField_eq_some_iff.mp h; exact List.forall_mem_singleton.mpr rfl
  · obtain ⟨side, -, -, -, rfl⟩ := assembleForm_tlbegin_iff.mp h; exact List.forall_mem_singleton.mpr rfl
  · obtain ⟨x, -, rfl⟩ := map_unsignedField_eq_some_iff.mp h; exact List.forall_mem_singleton.mpr rfl
  · cases h; exact List.forall_mem_singleton.mpr rfl
  · cases h; exact List.forall_mem_singleton.mpr rfl
  · obtain ⟨x, -, rfl⟩ := map_pixOf_eq_some_iff.mp h; exact List.forall_mem_singleton.mpr rfl
  · obtain ⟨x, -, rfl⟩ := map_pixOf_eq_some_iff.mp h; exact List.forall_mem_singleton.mpr rfl
  · cases h; exact List.forall_mem_singleton.mpr rfl
  · cases h; exact List.forall_mem_singleton.mpr rfl
  · cases h; exact List.forall_mem_singleton.mpr rfl
  · obtain ⟨samples, -, -, rfl⟩ := rowPix_eq_some_iff.mp h; exact rowCommands_wellFormed samples
  · obtain ⟨w, h, -, -, rfl⟩ := (assembleForm_setframe_iff (p := p)).mp h
    exact List.forall_mem_cons.mpr ⟨rfl, List.forall_mem_singleton.mpr rfl⟩
  · obtain ⟨side, data, -, -, -, -, rfl⟩ := (assembleForm_tload_iff (p := p) (ops := _ :: _)).mp h
    exact loadCommands_wellFormed side data
  · cases h

end Forms

/-- Settles O6: the lemma of each form, every command of a form legal, and the five mode names by running the assembler. -/
theorem assemblerNeverTruncates : Obligations.AssemblerNeverTruncates := by
  intro p is
  refine ⟨fun _ _ => assembleForm_wellFormed, fun v => ?_, fun u v => ?_, fun ops => ?_, ?_⟩
  · exact ⟨assembleForm_setw_iff, assembleForm_setmode_iff, assembleForm_setfw_iff, assembleForm_setfh_iff,
      assembleForm_tlbegin_iff, assembleForm_tldata_iff, assembleForm_pix_iff, assembleForm_pixl_iff⟩
  · exact ⟨assembleForm_setcmp_iff, assembleForm_setframe_iff⟩
  · exact ⟨assembleForm_rowpix_iff, assembleForm_tload_iff⟩
  · simp only [List.forall_mem_cons, List.not_mem_nil, false_implies, implies_true, and_true]
    exact ⟨rfl, rfl, rfl, rfl, rfl⟩

/-- The word of PIXL (R86): opcode 0x31, bit 8 set, the sample below it. -/
theorem encode_pixl (v : Byte) : encode (.pix v true) = 0x3100000000000100 ||| v.setWidth 64 := by
  have hoperand : (BitVec.ofBool true ++ v).setWidth 32 = 0x100 ||| v.setWidth 32 := by
    rw [BitVec.append_def, BitVec.setWidth_or]
    simp
  simp only [encode, Instr.opcode, Instr.operand, Opcode.bits, hoperand, BitVec.setWidth_or, ← BitVec.or_assoc]
  simp

/-- Settles O7: each expansion is the accepted form's, read from right to left. -/
theorem pseudoInstructionsExpand : Obligations.PseudoInstructionsExpand := by
  refine ⟨fun p samples hne => ?_, fun p v => ⟨?_, encode_pixl v⟩, fun p w h => ?_, fun p side data hone hmax hlength => ?_⟩
  · exact assembleForm_rowpix_iff.mpr ⟨samples, rfl, hne, rfl⟩
  · exact assembleForm_pixl_iff.mpr ⟨v, rfl, rfl⟩
  · exact assembleForm_setframe_iff.mpr ⟨w, h, rfl, rfl, rfl⟩
  · exact assembleForm_tload_iff.mpr ⟨side, data, rfl, hone, hmax, hlength, rfl⟩

end Sys2Proof.Machine
end

section
/-! PROOFS. The frame (46_frame.md): a shape that passes the checks of R174 goes out whole, as the bytes of R88. BUILD and
BUILDA differ in where the shape comes from only. -/

namespace Sys2Proof.Machine

/-- The low 16 bits of a natural number, byte by byte, are its two low bytes (R67, R88). -/
theorem low16_bytes (n : Nat) :
    (low16 n).extractLsb' 0 8 = BitVec.ofNat 8 n ∧ (low16 n).extractLsb' 8 8 = BitVec.ofNat 8 (n / 256) := by
  have hlow : (low16 n).toNat = n % 65536 := by simp [low16]
  constructor <;> apply BitVec.eq_of_toNat_eq <;>
    simp only [BitVec.extractLsb'_toNat, hlow, BitVec.toNat_ofNat, Nat.shiftRight_eq_div_pow] <;> omega

/-- Header and payload are the frame R88 writes. -/
theorem frameHeader_append (w h : Nat) (bytes : List Byte) : frameHeader w h ++ bytes = frameBytes w h bytes := by
  obtain ⟨hw, hw'⟩ := low16_bytes w
  obtain ⟨hh, hh'⟩ := low16_bytes h
  simp only [frameHeader, frameBytes, frameOpcode, hw, hw', hh, hh']
  rfl

/-- A frame whose shape passes the five checks of R174 goes out whole, and the payload is emptied (R175). -/
theorem frame_emits {s : State} (hi : CoreInv s) {opc : BitVec 8} {w h : Nat} (hcol : s.col = 0) (hw : w ≤ 65535)
    (hh : h ≤ 65535) (hsize : w * h = s.payloadLen.toNat) :
    ∃ bytes : List Byte, bytes.length = w * h ∧ (∀ k, k < w * h → s.pbuf.read k = bytes[k]?) ∧
      frame opc w h s = .next
        { s with
          out := s.out ++ frameBytes w h bytes, payloadLen := 0, payloadRows := 0, cmdCount := s.cmdCount + 1 } := by
  obtain ⟨hcap, -, -⟩ := hi.payload
  obtain ⟨bytes, hbytes⟩ := hi.payloadBytes_ok
  obtain ⟨hlength, hread⟩ := payloadBytes_ok_iff.mp hbytes
  refine ⟨bytes, hlength.trans hsize.symm, fun k hk => (hread k (hsize ▸ hk)).2, ?_⟩
  have hwRange : ¬((w : Int) < 0 ∨ (w : Int) > 65535) := by omega
  have hhRange : ¬((h : Int) < 0 ∨ (h : Int) > 65535) := by omega
  have hsize' : (w : Int) * h = s.payloadLen.toNat := by exact_mod_cast hsize
  have hcapRange : ¬(s.payloadLen.toNat : Int) > frameCapacity := by exact_mod_cast Nat.not_lt.mpr hcap
  rw [← frameHeader_append]
  simp only [frame, hcol, hwRange, hhRange, hcapRange, hsize', ne_eq, not_true_eq_false, if_false, emitFrame, hbytes,
    finish, complete, emit]

/-- Settles O38: FRAME_W and FRAME_H read as the shape. -/
theorem buildEmitsFrame : Obligations.BuildEmitsFrame := by
  intro s w h hi hcol hfw hfh hw hh hsize
  obtain ⟨bytes, hlength, hread, hframe⟩ := frame_emits hi (opc := Opcode.build.bits) hcol hw hh hsize
  refine ⟨bytes, hlength, hread, ?_⟩
  simp only [exec, execBuild, signed32, hfw, hfh, hframe]

/-- Settles O39: ceilDiv(W, 8) and PAYLOAD_ROWS are always in range. -/
theorem buildaEmitsFrame : Obligations.BuildaEmitsFrame := by
  intro s w h hi hcol hw hh hsize
  have hwRange : w ≤ 65535 := by have := s.w.isLt; omega
  have hhRange : h ≤ 65535 := by have := s.payloadRows.isLt; omega
  obtain ⟨bytes, hlength, hread, hframe⟩ := frame_emits hi (opc := Opcode.builda.bits) hcol hwRange hhRange hsize
  refine ⟨bytes, hlength, hread, ?_⟩
  have hceil : ceilDiv s.w.toNat 8 = w := by simp only [ceilDiv, floorDiv]; omega
  simp only [exec, execBuilda, hceil, ← hh, hframe]

end Sys2Proof.Machine
end

section
/-! PROOFS. A row of PIX commands (R87, R134, R166, R168). Where the dither keeps no state the decisions of a row are known
before it starts, so the position within the row says all: `RowAt` is what holds after `c` of its samples, one PIX takes it
to `c + 1`, and the last one closes the row. -/

namespace Sys2Proof.Machine

/-! ## The bits of one byte (R87, R163) -/

/-- The first `n` bits of group `k` of a row as a number, the earliest bit the highest: what the packer holds (R163). -/
def groupValue (bits : List Bool) (k : Nat) : Nat → Nat
  | 0 => 0
  | n + 1 => 2 * groupValue bits k n + (rowBit bits (8 * k + n)).toNat

/-- R87's sum is the value of a whole group. -/
theorem packedByte_eq_groupValue (bits : List Bool) (k : Nat) :
    packedByte bits k = BitVec.ofNat 8 (groupValue bits k 8) := by
  simp only [packedByte, List.range_succ, List.range_zero, List.nil_append, List.cons_append, List.map_cons, List.map_nil,
    List.sum_cons, List.sum_nil, groupValue]
  congr 1
  omega

/-- Past the row's end every bit is 0: the bits so far move to the high end (R87, R166). -/
theorem groupValue_past_end {bits : List Bool} {k n : Nat} (h : bits.length ≤ 8 * k + n) (m : Nat) :
    groupValue bits k (n + m) = groupValue bits k n * 2 ^ m := by
  induction m with
  | zero => simp
  | succ m ih =>
    have hbit : rowBit bits (8 * k + (n + m)) = false := by
      simp only [rowBit, List.getD_eq_getElem?_getD, List.getElem?_eq_none (show bits.length ≤ 8 * k + (n + m) by omega),
        Option.getD_none]
    rw [← Nat.add_assoc, groupValue, ih, hbit, pow_succ]
    simp only [Bool.toNat_false]
    ring

/-- A group that is complete, or that the row's end cuts short, left-aligned is the byte of R87. -/
theorem ofNat_groupValue_leftAligned {bits : List Bool} {k n : Nat} (hn : n ≤ 8)
    (h : n = 8 ∨ bits.length ≤ 8 * k + n) :
    BitVec.ofNat 8 (groupValue bits k n * 2 ^ (8 - n)) = packedByte bits k := by
  rw [packedByte_eq_groupValue]
  rcases h with rfl | h
  · simp
  · rw [← groupValue_past_end h, Nat.add_sub_cancel' hn]

theorem packedRow_getElem? {bits : List Bool} {k : Nat} (h : k < (bits.length + 7) / 8) :
    (packedRow bits)[k]? = some (packedByte bits k) := by
  simp [packedRow, h]

/-! ## Decisions without state (R142, R143, R160) -/

/-- A mode whose decisions read no accumulator. -/
abbrev OrderedMode (m : Mode) : Prop := m = .bayer ∨ m = .blue ∨ m = .pass

/-- In BAYER, BLUE and PASS a decision leaves the state, and the bit it packs is `orderedDark`. -/
theorem ditherDecide_ordered {t : State} (hi : CoreInv t) (hact : t.active = true) (hmode : OrderedMode t.mode)
    (v : Byte) :
    ∃ q, ditherDecide v t = .ok (q, t) ∧ isDark t.packLe q = orderedDark t t.col.toNat v := by
  rcases hmode with hm | hm | hm
  · refine ⟨decideBayer v t, by simp only [ditherDecide, hm], ?_⟩
    rw [Bool.eq_iff_iff]
    simp only [decideBayer, bayerQuantize, isDark_quantized, orderedDark, hm, Bool.not_eq_true',
      decide_eq_false_iff_not, decide_eq_true_eq, not_le]
    rfl
  · obtain ⟨e, he⟩ := tileValueBlue_ok hi (hi.blueTile hact hm) t.row t.col.toNat
    have hside : t.tileSide.toNat ≠ 0 := fun h0 => by simp [tileValueBlue, h0] at he
    have hread : t.tlut.read (t.row % t.tileSide.toNat * t.tileSide.toNat + t.col.toNat % t.tileSide.toNat) = some e := by
      simp only [tileValueBlue, hside, if_false] at he
      exact (memRead_ok_iff.mp he).2
    refine ⟨blueQuantize v e, by simp only [ditherDecide, hm, decideBlue, he], ?_⟩
    rw [Bool.eq_iff_iff]
    simp only [blueQuantize, isDark_quantized, orderedDark, hm, hread, Option.getD_some, Bool.not_eq_true',
      decide_eq_false_iff_not, decide_eq_true_eq, not_lt]
  · refine ⟨v, by simp only [ditherDecide, hm], ?_⟩
    simp only [isDark, orderedDark, hm, packThreshold]
    rfl

/-! ## The payload of a row -/

/-- From `s` to `t` the first `n` bytes of a packed row have been appended to the payload. -/
structure BytesAppended (s : State) (bits : List Bool) (n : Nat) (t : State) : Prop where
  length : t.payloadLen.toNat = s.payloadLen.toNat + n
  before : ∀ k, k < s.payloadLen.toNat → t.pbuf.read k = s.pbuf.read k
  bytes : ∀ k, k < n → t.pbuf.read (s.payloadLen.toNat + k) = some (packedByte bits k)

/-- One more byte. -/
theorem BytesAppended.succ {s t u : State} {bits : List Bool} {n : Nat} (h : BytesAppended s bits n t)
    (hlength : u.payloadLen.toNat = t.payloadLen.toNat + 1)
    (hnew : u.pbuf.read t.payloadLen.toNat = some (packedByte bits n))
    (hold : ∀ k, k ≠ t.payloadLen.toNat → u.pbuf.read k = t.pbuf.read k) : BytesAppended s bits (n + 1) u := by
  have hlen := h.length
  refine ⟨by omega, fun k hk => ?_, fun k hk => ?_⟩
  · rw [hold k (by omega), h.before k hk]
  · by_cases hkn : k = n
    · rw [hkn, ← hlen, hnew]
    · rw [hold _ (by omega), h.bytes k (by omega)]

/-! ## Within a row -/

/-- `t` is the state after `c` samples of the row that starts in `s`, whose decisions are `bits`. -/
structure RowAt (s : State) (bits : List Bool) (c : Nat) (t : State) : Prop where
  inv : CoreInv t
  frame : t =
    { s with
      packAcc := t.packAcc, packN := t.packN, pbuf := t.pbuf, payloadLen := t.payloadLen, col := t.col
      acc0 := t.acc0, acc1 := t.acc1, acc2 := t.acc2, cmdCount := t.cmdCount }
  col : t.col.toNat = c
  /-- The packer holds the group's bits so far. -/
  held : t.packAcc.toNat = groupValue bits (c / 8) (c % 8)
  payload : BytesAppended s bits (c / 8) t

/-- A row boundary of an open stream. -/
theorem rowAt_zero {s : State} (hi : CoreInv s) (hact : s.active = true) (hcol : s.col = 0) (bits : List Bool) :
    RowAt s bits 0 s := by
  obtain ⟨-, -, hpackN, hpackAcc⟩ := hi.stream hact
  have hnone : s.packN.toNat = 0 := by simpa [hcol] using hpackN
  have hempty : s.packAcc.toNat = 0 := by simpa [hnone] using hpackAcc
  exact ⟨hi, rfl, by simp [hcol], hempty, rfl, fun _ _ => rfl, fun k hk => absurd hk (Nat.not_lt_zero k)⟩

section WithinRow
variable {s t u : State} {bits : List Bool} {c : Nat} {last : Bool} (h : RowAt s bits c t) (hact : s.active = true)

include h hact in
theorem RowAt.packN : t.packN.toNat = c % 8 := by
  obtain ⟨-, -, hpackN, -⟩ := h.inv.stream (by rw [h.frame]; exact hact)
  rw [hpackN, h.col]

include h in
/-- The packer with the next bit shifted in. -/
theorem RowAt.packedBits : packedBits t (rowBit bits c) = groupValue bits (c / 8) (c % 8 + 1) := by
  rw [Machine.packedBits, h.held, groupValue, Nat.div_add_mod]

include h hact in
/-- A PIX that completes a byte appends the byte of R87. -/
theorem RowAt.payload_byteOut (he : PixEffect t (rowBit bits c) last u) (hbyte : t.packN = 7 ∨ last = true)
    (hlast : last = true → bits.length ≤ c + 1) : BytesAppended s bits (c / 8 + 1) u := by
  obtain ⟨-, -, hlength, hnew, hold⟩ := he.byteOut hbyte
  refine h.payload.succ hlength ?_ hold
  rw [hnew, h.packedBits, h.packN hact, ofNat_groupValue_leftAligned (by omega)]
  rcases hbyte with hseven | hl
  · have := (h.packN hact).symm.trans (congrArg BitVec.toNat hseven)
    exact .inl (by simp [this])
  · have := hlast hl
    exact .inr (by omega)

include h hact in
/-- A PIX inside the row. -/
theorem RowAt.next (he : PixEffect t (rowBit bits c) false u) (hu : CoreInv u) : RowAt s bits (c + 1) u := by
  obtain ⟨hrow, hcol, hrows⟩ := he.nextColumn rfl
  have hpackN := h.packN hact
  have hframe : u =
      { s with
        packAcc := u.packAcc, packN := u.packN, pbuf := u.pbuf, payloadLen := u.payloadLen, col := u.col
        acc0 := u.acc0, acc1 := u.acc1, acc2 := u.acc2, cmdCount := u.cmdCount } := by
    rw [he.frame, hrow, hrows, h.frame]
  rw [h.col] at hcol
  by_cases hseven : c % 8 = 7
  · have hbyte : t.packN = 7 := BitVec.eq_of_toNat_eq (hpackN.trans hseven)
    obtain ⟨hacc, -⟩ := he.byteOut (.inl hbyte)
    have hpayload := h.payload_byteOut hact he (.inl hbyte) (by simp)
    rw [show c / 8 + 1 = (c + 1) / 8 by omega] at hpayload
    exact ⟨hu, hframe, hcol, by rw [hacc, show (c + 1) % 8 = 0 by omega]; rfl, hpayload⟩
  · have hnot : ¬(t.packN = 7 ∨ false = true) := by
      rintro (hbyte | hl)
      · exact hseven (hpackN.symm.trans (congrArg BitVec.toNat hbyte))
      · cases hl
    obtain ⟨hacc, -, hlen, hpbuf⟩ := he.bitHeld hnot
    rw [h.packedBits, show c / 8 = (c + 1) / 8 by omega, show c % 8 + 1 = (c + 1) % 8 by omega] at hacc
    have hpayload := h.payload
    rw [show c / 8 = (c + 1) / 8 by omega] at hpayload
    exact ⟨hu, hframe, hcol, hacc, hlen ▸ hpayload.length, hpbuf ▸ hpayload.before, hpbuf ▸ hpayload.bytes⟩

end WithinRow

/-! ## The whole row -/

/-- The row that started in `s` has ended in `t`: its packed bytes appended, and the position that of the next row. -/
structure RowDone (s : State) (bits : List Bool) (t : State) : Prop where
  payload : BytesAppended s bits ((bits.length + 7) / 8) t
  row : t.row = s.row + 1
  col : t.col = 0
  packN : t.packN = 0
  packAcc : t.packAcc = 0
  rows : t.payloadRows.toNat = s.payloadRows.toNat + 1

/-- The row's last PIX, which completes its last byte (R135, R163). -/
theorem RowAt.finish {s t u : State} {bits : List Bool} {c : Nat} (h : RowAt s bits c t) (hact : s.active = true)
    (hc : c + 1 = bits.length) (he : PixEffect t (rowBit bits c) true u) : RowDone s bits u := by
  obtain ⟨hrow, hcol, hrows⟩ := he.rowDone rfl
  obtain ⟨hacc, hn, -⟩ := he.byteOut (.inr rfl)
  have hpayload := h.payload_byteOut hact he (.inr rfl) fun _ => hc.ge
  rw [show c / 8 + 1 = (bits.length + 7) / 8 by omega] at hpayload
  rw [h.frame] at hrow hrows
  exact ⟨hpayload, hrow, hcol, hn, hacc, hrows⟩

@[simp] theorem length_orderedRowBits (s : State) (samples : List Byte) :
    (orderedRowBits s samples).length = samples.length := by
  simp [orderedRowBits]

/-- The bit of a column is the decision of its sample. -/
theorem rowBit_orderedRowBits {s : State} {samples : List Byte} {c : Nat} {v : Byte} (hv : samples[c]? = some v) :
    rowBit (orderedRowBits s samples) c = orderedDark s c v := by
  simp [rowBit, orderedRowBits, List.getD_eq_getElem?_getD, hv]

section WholeRow
variable {s : State} {samples : List Byte} (hact : s.active = true) (hmode : OrderedMode s.mode)
  (hwidth : samples.length = s.w.toNat) (hroom : s.payloadLen.toNat + (s.w.toNat + 7) / 8 ≤ 4096)
include hact hmode hwidth hroom

/-- Inside such a row the PIX of the next sample completes, and packs the row's next bit. -/
theorem RowAt.exec_pix {t : State} {c : Nat} {last : Bool} {v : Byte} (h : RowAt s (orderedRowBits s samples) c t)
    (hv : samples[c]? = some v) (hlast : last = true ↔ c + 1 = samples.length) :
    ∃ u, exec (.pix v last) t = .next u ∧ PixEffect t (rowBit (orderedRowBits s samples) c) last u ∧ CoreInv u := by
  have hc : c < samples.length := (List.getElem?_eq_some_iff.mp hv).1
  have htact : t.active = true := by rw [h.frame]; exact hact
  have htmode : OrderedMode t.mode := by rw [h.frame]; exact hmode
  have htw : t.w = s.w := by rw [h.frame]
  have hdark : orderedDark t c v = orderedDark s c v := by rw [h.frame]; rfl
  have haccepted : PixAccepted last t := by
    refine ⟨htact, by rw [h.col, htw, ← hwidth, hlast], fun _ => ?_⟩
    have := h.payload.length
    omega
  obtain ⟨q, hq, hbit⟩ := ditherDecide_ordered h.inv htact htmode v
  obtain ⟨u, hu, he, -⟩ := execPix_of_decide h.inv haccepted hq
  obtain ⟨u', hu', hinv⟩ := exec_keeps h.inv (.pix v last)
  cases hu.symm.trans hu'
  rw [hbit, h.col, hdark, ← rowBit_orderedRowBits hv] at he
  exact ⟨u, hu, he, hinv⟩

/-- The rest of a row, from column `c` on, completes and ends the row. -/
theorem RowAt.execAll_rowCommands {rest : List Byte} {t : State} {c : Nat}
    (h : RowAt s (orderedRowBits s samples) c t) (hrest : samples.drop c = rest) (hne : rest ≠ []) :
    ∃ u, execAll (rowCommands rest) t = .next u ∧ RowDone s (orderedRowBits s samples) u := by
  induction rest using rowCommands.induct generalizing t c with
  | case1 => exact absurd rfl hne
  | case2 v =>
    have hv : samples[c]? = some v := by rw [← List.head?_drop, hrest]; rfl
    have hlen : c + 1 = samples.length := by
      have := congrArg List.length hrest
      simp only [List.length_drop, List.length_singleton] at this
      omega
    obtain ⟨u, hu, he, -⟩ := h.exec_pix hact hmode hwidth hroom (last := true) hv (by simp [hlen])
    exact ⟨u, execAll_cons hu [], h.finish hact (by rw [hlen, length_orderedRowBits]) he⟩
  | case3 v w rest ih =>
    have hv : samples[c]? = some v := by rw [← List.head?_drop, hrest]; rfl
    have hlen : c + 1 < samples.length := by
      have := congrArg List.length hrest
      simp only [List.length_drop, List.length_cons] at this
      omega
    have htail : samples.drop (c + 1) = w :: rest := by rw [← List.tail_drop, hrest]; rfl
    obtain ⟨u, hu, he, hinv⟩ := h.exec_pix hact hmode hwidth hroom (last := false) hv (by simp; omega)
    obtain ⟨z, hz, hdone⟩ := ih (h.next hact he hinv) htail (by simp)
    exact ⟨z, (execAll_cons hu _).trans hz, hdone⟩

end WholeRow

/-- Settles O37: a row boundary is `RowAt` column 0, and the rest of the row from there is the whole row. -/
theorem rowOfPixelsAppendsPackedRow : Obligations.RowOfPixelsAppendsPackedRow := by
  intro s samples hi hact hcol hmode hwidth hroom
  obtain ⟨hw, -⟩ := hi.stream hact
  have hne : samples ≠ [] := fun h => by simp [h] at hwidth; omega
  obtain ⟨t, hrun, hpayload, hrow, hcol', hn, hacc, hrows⟩ :=
    (rowAt_zero hi hact hcol _).execAll_rowCommands hact hmode hwidth hroom List.drop_zero hne
  obtain ⟨hlength, hbefore, hbytes⟩ := hpayload
  have hbitsLen : (orderedRowBits s samples).length = s.w.toNat := by rw [length_orderedRowBits, hwidth]
  rw [hbitsLen] at hlength hbytes
  refine ⟨t, hrun, hlength, fun k hk => ?_, hbefore, hrow, hcol', hn, hacc, hrows⟩
  rw [hbytes k hk, packedRow_getElem? (by rwa [hbitsLen])]
end Sys2Proof.Machine
end

section
/-! PROOFS. Control (40_control.md): a word that decodes is executed, SETW, SETMODE and SETCMP by their checks in the order
of R209, and a stream keeps the configuration (R96, R97). -/

namespace Sys2Proof.Machine

/-- Settles O8: a ready transport holds no word, and a word that decodes is executed. -/
theorem stepRunsDecodedCommand : Obligations.StepRunsDecodedCommand := by
  intro s w rest i hinput hfault hready hdecode
  rw [step_command hinput (holds_of_ready w hready)]
  exact runWord_of_decode (s := { s with input := rest }) hfault hdecode

/-- Settles O15: NOP is nothing but its completion. -/
theorem nopAdvancesCountOnly : Obligations.NopAdvancesCountOnly := fun _ => rfl

/-! ## SETW, SETMODE and SETCMP, check 4 passed -/

/-- The fault record of R205 for CONTRACT_VIOLATION. -/
theorem raise_contractViolation (opc info : BitVec 8) (s : State) :
    raise opc .contractViolation info s = .next (faulted s opc 2 info) := rfl

/-- SETW of a legal width asks only whether a stream is open (R92). -/
theorem exec_setw_legal {v : BitVec 16} {s : State} (h : 1 ≤ v.toNat ∧ v.toNat ≤ s.params.maxWidth) :
    exec (.setw v) s =
      if s.active then raise Opcode.setw.bits .contractViolation 1 s else complete { s with w := v } := by
  simp only [exec, execSetw, widthLegal_iff.mpr h, Bool.not_true, Bool.false_eq_true, if_false]

/-- SETMODE of a number that names a mode asks only whether a stream is open (R93). -/
theorem exec_setmode_legal {m : BitVec 3} {mode : Mode} (h : Mode.ofBits m = some mode) (s : State) :
    exec (.setmode m) s =
      if s.active then raise Opcode.setmode.bits .contractViolation 1 s else complete { s with mode := mode } := by
  simp only [exec, execSetmode, h]

/-- The numbers up to 4 name a mode (R25). -/
theorem mode_ofBits_of_le {m : BitVec 3} (h : m.toNat ≤ 4) : ∃ mode, Mode.ofBits m = some mode := by
  rw [← Option.isSome_iff_exists, mode_ofBits_isSome_eq_wellFormed Params.default]
  simpa [Instr.wellFormed] using h

/-- SETCMP has no illegal value: it asks only whether a stream is open (R94). -/
theorem exec_setcmp (atkGe packLe : Bool) (s : State) :
    exec (.setcmp atkGe packLe) s =
      if s.active then raise Opcode.setcmp.bits .contractViolation 1 s
      else complete { s with atkGe := atkGe, packLe := packLe } := rfl

/-- Settles O16: a legal width, and no stream open. -/
theorem setwWritesWidth : Obligations.SetwWritesWidth := by
  intro s w hone hmax hidle
  rw [exec_setw_legal ⟨hone, hmax⟩, hidle]
  rfl

/-- Settles O17: each of the five numbers names its mode, and no stream is open. -/
theorem setmodeWritesMode : Obligations.SetmodeWritesMode := by
  intro s mode hmode hidle
  have hnames : ∀ mode ∈ [(0, Mode.bayer), (1, .blue), (2, .fs), (3, .atk), (4, .pass)],
      Mode.ofBits mode.1 = some mode.2 := by decide
  rw [exec_setmode_legal (hnames mode hmode), hidle]
  rfl

/-- Settles O18: no stream is open. -/
theorem setcmpWritesComparators : Obligations.SetcmpWritesComparators := by
  intro s atkGe packLe hidle
  rw [exec_setcmp, hidle]
  rfl

/-- Settles O19: check 4 comes first, in a stream or not; what passes it is refused in a stream. -/
theorem configurationCommandsFaultInOrder : Obligations.ConfigurationCommandsFaultInOrder := by
  intro s
  refine ⟨fun w hillegal => ?_, fun m hillegal => ?_, fun hact => ⟨fun w hone hmax => ?_, fun m hle => ?_, fun a b => ?_⟩⟩
  · exact (exec_setw_illegal (by omega)).trans (raise_illegalCommand _ _ s)
  · exact (exec_setmode_illegal hillegal s).trans (raise_illegalCommand _ _ s)
  · rw [exec_setw_legal ⟨hone, hmax⟩, hact]
    exact raise_contractViolation _ _ s
  · obtain ⟨mode, hmode⟩ := mode_ofBits_of_le hle
    rw [exec_setmode_legal hmode, hact]
    exact raise_contractViolation _ _ s
  · rw [exec_setcmp, hact]
    exact raise_contractViolation _ _ s

/-! ## The configuration in a stream (R96, R97) -/

/-- W, MODE and the two comparators are as they were. -/
structure SameConfig (s t : State) : Prop where
  w : t.w = s.w
  mode : t.mode = s.mode
  atkGe : t.atkGe = s.atkGe
  packLe : t.packLe = s.packLe

theorem SameConfig.refl (s : State) : SameConfig s s := ⟨rfl, rfl, rfl, rfl⟩

/-- Wherever the command leads, the configuration is that of `s`. -/
def KeepsConfig (s : State) (o : StepOutcome) : Prop := ∀ t, o = .next t → SameConfig s t

theorem keepsConfig_raise (opc info : BitVec 8) (e : FaultCode) (s : State) : KeepsConfig s (raise opc e info s) := by
  rintro t ⟨⟩
  exact ⟨rfl, rfl, rfl, rfl⟩

theorem keepsConfig_complete {s u : State} (h : SameConfig s u) : KeepsConfig s (complete u) := by
  rintro t ⟨⟩
  exact ⟨h.w, h.mode, h.atkGe, h.packLe⟩

theorem keepsConfig_finish {s : State} {r : Except Fault State} (h : ∀ u, r = .ok u → SameConfig s u) :
    KeepsConfig s (finish r) := by
  cases r with
  | ok u => exact keepsConfig_complete (h u rfl)
  | error f => rintro t ⟨⟩

/-- A check of R209's order: the fault where it fails, the rest of the command where it passes. -/
theorem keepsConfig_check {s : State} {c : Prop} [Decidable c] {opc info : BitVec 8} {e : FaultCode} {o : StepOutcome}
    (h : ¬c → KeepsConfig s o) : KeepsConfig s (if c then raise opc e info s else o) := by
  split
  · exact keepsConfig_raise opc info e s
  · exact h ‹_›

theorem keepsConfig_frame (opc : BitVec 8) (w h : Int) (s : State) : KeepsConfig s (frame opc w h s) := by
  intro t ht
  rcases frame_next_cases ht with ⟨e, info, rfl, -⟩ | ⟨-, -, -, -, -, -, -, bytes, -, rfl⟩
  · exact ⟨rfl, rfl, rfl, rfl⟩
  · exact ⟨rfl, rfl, rfl, rfl⟩

/-- In a stream the three configuration commands fault (R92, R93, R94); the others but SRST never write the configuration. -/
theorem exec_keepsConfig {s : State} (hact : s.active = true) {i : Instr} (hi : i ≠ .srst) : KeepsConfig s (exec i s) := by
  cases i with
  | nop => exact keepsConfig_complete (.refl s)
  | srst => exact absurd rfl hi
  | setw v =>
    by_cases hlegal : 1 ≤ v.toNat ∧ v.toNat ≤ s.params.maxWidth
    · rw [exec_setw_legal hlegal]
      exact keepsConfig_check (absurd hact)
    · rw [exec_setw_illegal hlegal]
      exact keepsConfig_raise _ _ _ s
  | setmode m =>
    by_cases hlegal : m.toNat ≤ 4
    · obtain ⟨mode, hmode⟩ := mode_ofBits_of_le hlegal
      rw [exec_setmode_legal hmode]
      exact keepsConfig_check (absurd hact)
    · rw [exec_setmode_illegal (not_le.mp hlegal)]
      exact keepsConfig_raise _ _ _ s
  | setcmp atkGe packLe => exact keepsConfig_check (absurd hact)
  | setfw v => exact keepsConfig_complete ⟨rfl, rfl, rfl, rfl⟩
  | setfh v => exact keepsConfig_complete ⟨rfl, rfl, rfl, rfl⟩
  | tlbegin side =>
    exact keepsConfig_check fun _ => keepsConfig_check fun _ => keepsConfig_complete ⟨rfl, rfl, rfl, rfl⟩
  | tldata d =>
    refine keepsConfig_check fun _ => keepsConfig_check fun _ => keepsConfig_finish fun u hu => ?_
    unfold tileAppend at hu
    split at hu <;> cases hu
    exact ⟨rfl, rfl, rfl, rfl⟩
  | tlend => exact keepsConfig_check fun _ => keepsConfig_check fun _ => keepsConfig_complete ⟨rfl, rfl, rfl, rfl⟩
  | start => exact keepsConfig_check (absurd hact)
  | pix sample last =>
    refine keepsConfig_check fun _ => keepsConfig_check fun _ => keepsConfig_check fun _ => keepsConfig_check fun _ =>
      keepsConfig_finish fun u hu => ?_
    rw [pixDatapath_frame hu]
    exact ⟨rfl, rfl, rfl, rfl⟩
  | endStream => exact keepsConfig_check fun _ => keepsConfig_check fun _ => keepsConfig_complete ⟨rfl, rfl, rfl, rfl⟩
  | build => exact keepsConfig_frame _ _ _ s
  | builda => exact keepsConfig_frame _ _ _ s

/-- A word run in a stream that is still open afterwards. -/
theorem runWord_sameConfig {w : CommandWord} {s t : State} (h : runWord w s = .next t) (hact : s.active = true)
    (hact' : t.active = true) : SameConfig s t := by
  rcases runWord_next_cases h with ⟨-, -, rfl⟩ | ⟨-, -, rfl⟩ | ⟨-, e, -, rfl⟩ | ⟨-, i, -, hx⟩
  · cases hact'
  · exact .refl _
  · exact ⟨rfl, rfl, rfl, rfl⟩
  · refine exec_keepsConfig hact ?_ t hx
    rintro rfl
    cases hx
    cases hact'

/-- Settles O47: a reset closes the stream, and a word that leaves it open keeps the configuration. -/
theorem configurationConstantInStream : Obligations.ConfigurationConstantInStream := by
  intro s t hstep hact hact'
  suffices SameConfig s t from ⟨this.w, this.mode, this.atkGe, this.packLe⟩
  rcases step_next_cases hstep with ⟨-, rfl⟩ |
    ⟨i, rest, -, ⟨w, -, -, rfl⟩ | ⟨w, -, -, hrun⟩ | ⟨-, rfl⟩ | ⟨w, n, -, rfl⟩⟩
  · exact .refl _
  · exact .refl _
  · obtain ⟨hw, hmode, hatkGe, hpackLe⟩ := runWord_sameConfig hrun hact hact'
    exact ⟨hw, hmode, hatkGe, hpackLe⟩
  · cases hact'
  · cases hact'

end Sys2Proof.Machine
end

section
/-! PROOFS. The tile commands one by one (R117 to R119, R209), and the tile over one step (R116): what may happen to the
tile is said once, as a move of the tile alone (`TileMove`), and every command but SRST makes such a move. -/

namespace Sys2Proof.Machine

/-! ## The three commands, accepted (R117 to R119) -/

/-- Settles O21: the loader's first command is any TLBEGIN from EMPTY. -/
theorem tlbeginOpensLoad : Obligations.TlbeginOpensLoad :=
  fun _ _ hvalid hloading hone hmax => exec_tlbegin_of_empty hvalid hloading hone hmax

/-- Settles O22: one write at TILE_COUNT, which does not wrap; the invariant keeps the side within the space. -/
theorem tldataWritesNextElement : Obligations.TldataWritesNextElement := by
  intro s d hi hloading hroom
  obtain ⟨-, hmax, -, -⟩ := hi.tileLoading hloading
  exact ⟨_, exec_tldata_of_room d hloading hmax hroom, rfl, tileCount_succ_toNat hroom, Memory.read_write_same _ _ _,
    fun _ hk => Memory.read_write_other _ _ hk⟩

/-- Settles O23: the loader's last command is any TLEND with side² bytes in. -/
theorem tlendMakesTileValid : Obligations.TlendMakesTileValid :=
  fun _ hloading hfull => exec_tlend_of_full hloading hfull

/-! ## Their faults, in the order of R209 -/

/-- The fault record of R205 for CONFIGURATION_ERROR. -/
theorem raise_configurationError (opc info : BitVec 8) (s : State) :
    raise opc .configurationError info s = .next (faulted s opc 1 info) := rfl

/-- Settles O24: TLBEGIN asks for EMPTY and then for a legal side, TLDATA and TLEND for an open load and then for its
count. -/
theorem tileCommandsFaultInOrder : Obligations.TileCommandsFaultInOrder := by
  intro s
  refine ⟨fun side hbusy => ?_, fun side hvalid hidle hillegal => ?_, fun hidle => ?_, fun hloading => ?_⟩
  · have hcheck : (s.tileValid || s.tileLoading) = true := by simpa using hbusy
    exact (if_pos hcheck).trans (raise_configurationError _ _ s)
  · have hempty : ¬(s.tileValid || s.tileLoading) = true := by simp [hvalid, hidle]
    have hside : (!tileSideLegal s.params side) = true := by
      have hrange : ¬(1 ≤ side.toNat ∧ side.toNat ≤ s.params.tileMaxSide) := by omega
      simpa using mt tileSideLegal_iff.mp hrange
    exact (if_neg hempty).trans ((if_pos hside).trans (raise_configurationError _ _ s))
  · have hcheck : (!s.tileLoading) = true := by simpa using hidle
    exact ⟨fun d => (if_pos hcheck).trans (raise_configurationError _ _ s),
      (if_pos hcheck).trans (raise_configurationError _ _ s)⟩
  · have hopen : ¬(!s.tileLoading) = true := by simpa using hloading
    exact ⟨fun hfull d => (if_neg hopen).trans ((if_pos hfull).trans (raise_configurationError _ _ s)),
      fun hshort => (if_neg hopen).trans ((if_pos hshort).trans (raise_configurationError _ _ s))⟩

/-! ## What may happen to the tile (R116) -/

/-- The tile's part of the state (R29). -/
@[ext] structure Tile where
  valid : Bool
  loading : Bool
  side : BitVec 16
  count : BitVec 32
  entries : Memory Byte

/-- The tile of a state. -/
def State.tile (s : State) : Tile := ⟨s.tileValid, s.tileLoading, s.tileSide, s.tileCount, s.tlut⟩

/-- The moves of the tile without a reset, from `a` to `b`: EMPTY → LOADING → VALID, byte by byte. -/
inductive TileMove (p : Params) (a b : Tile) : Prop
  | kept (h : b = a)
  | opened (side : BitVec 16) (hvalid : a.valid = false) (hloading : a.loading = false)
      (hside : 1 ≤ side.toNat ∧ side.toNat ≤ p.tileMaxSide)
      (h : b = { a with side := side, count := 0, loading := true })
  | appended (d : Byte) (hloading : a.loading = true) (hroom : a.count.toNat < a.side.toNat * a.side.toNat)
      (h : b = { a with entries := a.entries.write a.count.toNat d, count := a.count + 1 })
  | closed (hloading : a.loading = true) (hfull : a.count.toNat = a.side.toNat * a.side.toNat)
      (h : b = { a with loading := false, valid := true })

section Moves
variable {p : Params} {a b : Tile}

/-- A valid tile has no move but to stay whole. -/
theorem TileMove.of_valid (h : TileMove p a b) (hvalid : a.valid = true) (hidle : a.loading = false) : b = a := by
  cases h with
  | kept h => exact h
  | opened _ hempty => simp [hvalid] at hempty
  | appended _ hloading => simp [hidle] at hloading
  | closed hloading => simp [hidle] at hloading

/-- With no load open the tile stays, or a load of a legal side opens with no byte in. -/
theorem TileMove.of_idle (h : TileMove p a b) (hidle : a.loading = false) :
    b = a ∨ ∃ side : BitVec 16, (1 ≤ side.toNat ∧ side.toNat ≤ p.tileMaxSide) ∧
      b = { a with side := side, count := 0, loading := true } := by
  cases h with
  | kept h => exact .inl h
  | opened side _ _ hside h => exact .inr ⟨side, hside, h⟩
  | appended _ hloading => simp [hidle] at hloading
  | closed hloading => simp [hidle] at hloading

end Moves

/-! ## Every command but SRST moves the tile so -/

/-- Wherever the command leads, the tile has made a move from that of `s`. -/
def MovesTile (s : State) (o : StepOutcome) : Prop := ∀ t, o = .next t → TileMove s.params s.tile t.tile

theorem movesTile_raise (opc info : BitVec 8) (e : FaultCode) (s : State) : MovesTile s (raise opc e info s) := by
  rintro t ⟨⟩
  exact .kept rfl

theorem movesTile_complete {s u : State} (h : TileMove s.params s.tile u.tile) : MovesTile s (complete u) := by
  rintro t ⟨⟩
  exact h

theorem movesTile_finish {s : State} {r : Except Fault State}
    (h : ∀ u, r = .ok u → TileMove s.params s.tile u.tile) : MovesTile s (finish r) := by
  intro t ht
  obtain ⟨u, hu, rfl⟩ := finish_eq_next_iff.mp ht
  exact h u hu

/-- A check of R209's order: the fault where it fails, the rest of the command where it passes. -/
theorem movesTile_check {s : State} {c : Prop} [Decidable c] {opc info : BitVec 8} {e : FaultCode} {o : StepOutcome}
    (h : ¬c → MovesTile s o) : MovesTile s (if c then raise opc e info s else o) := by
  split
  · exact movesTile_raise opc info e s
  · exact h ‹_›

theorem movesTile_frame (opc : BitVec 8) (w h : Int) (s : State) : MovesTile s (frame opc w h s) := by
  intro t ht
  rcases frame_next_cases ht with ⟨e, info, rfl, -⟩ | ⟨-, -, -, -, -, -, -, bytes, -, rfl⟩
  · exact .kept rfl
  · exact .kept rfl

/-- Appending to the tile: what it needs, and what it changes (R61, R118). -/
theorem tileAppend_ok_iff {d : Byte} {s t : State} :
    tileAppend d s = .ok t ↔ s.tileCount.toNat < tlutSize s.params ∧
      t = { s with tlut := s.tlut.write s.tileCount.toNat d, tileCount := s.tileCount + 1 } := by
  unfold tileAppend memWrite
  split
  · next h => split at h <;> simp_all
  · next h => split at h <;> simp_all [eq_comm]

/-- Every command but SRST makes one of the moves: the three tile commands their own, any other none. -/
theorem exec_movesTile {s : State} (hi : CoreInv s) {i : Instr} (hsrst : i ≠ .srst) : MovesTile s (exec i s) := by
  cases i with
  | nop => exact movesTile_complete (.kept rfl)
  | srst => exact absurd rfl hsrst
  | setw v => exact movesTile_check fun _ => movesTile_check fun _ => movesTile_complete (.kept rfl)
  | setmode m =>
    by_cases hlegal : m.toNat ≤ 4
    · obtain ⟨mode, hmode⟩ := mode_ofBits_of_le hlegal
      rw [exec_setmode_legal hmode]
      exact movesTile_check fun _ => movesTile_complete (.kept rfl)
    · rw [exec_setmode_illegal (not_le.mp hlegal)]
      exact movesTile_raise _ _ _ s
  | setcmp atkGe packLe => exact movesTile_check fun _ => movesTile_complete (.kept rfl)
  | setfw v => exact movesTile_complete (.kept rfl)
  | setfh v => exact movesTile_complete (.kept rfl)
  | tlbegin side =>
    refine movesTile_check fun hempty => movesTile_check fun hside => movesTile_complete ?_
    obtain ⟨hvalid, hloading⟩ : s.tileValid = false ∧ s.tileLoading = false := by simpa using hempty
    exact .opened side hvalid hloading (tileSideLegal_iff.mp (by simpa using hside)) rfl
  | tldata d =>
    refine movesTile_check fun hclosed => movesTile_check fun hfull => movesTile_finish fun u hu => ?_
    have hloading : s.tileLoading = true := by simpa using hclosed
    obtain ⟨-, -, hcount, -⟩ := hi.tileLoading hloading
    obtain ⟨-, rfl⟩ := tileAppend_ok_iff.mp hu
    exact .appended d hloading (lt_of_le_of_ne hcount hfull) rfl
  | tlend =>
    refine movesTile_check fun hclosed => movesTile_check fun hshort => movesTile_complete ?_
    have hloading : s.tileLoading = true := by simpa using hclosed
    exact .closed hloading (not_not.mp hshort) rfl
  | start =>
    exact movesTile_check fun _ => movesTile_check fun _ => movesTile_check fun _ => movesTile_complete (.kept rfl)
  | pix sample last =>
    refine movesTile_check fun _ => movesTile_check fun _ => movesTile_check fun _ => movesTile_check fun _ =>
      movesTile_finish fun u hu => ?_
    rw [pixDatapath_frame hu]
    exact .kept rfl
  | endStream => exact movesTile_check fun _ => movesTile_check fun _ => movesTile_complete (.kept rfl)
  | build => exact movesTile_frame _ _ _ s
  | builda => exact movesTile_frame _ _ _ s

/-! ## One step -/

/-- A word other than SRST moves the tile, whether it is discarded, faults or completes. -/
theorem runWord_movesTile {w : CommandWord} {s : State} (hi : CoreInv s) (hw : w ≠ 0x0100000000000000) :
    MovesTile s (runWord w s) := by
  intro t ht
  rcases runWord_next_cases ht with ⟨-, hsrst, -⟩ | ⟨-, -, rfl⟩ | ⟨-, e, -, rfl⟩ | ⟨-, i, hdecode, hexec⟩
  · exact absurd hsrst hw
  · exact .kept rfl
  · exact .kept rfl
  · refine exec_movesTile hi ?_ t hexec
    rintro rfl
    exact hw (srstWord_of_decode hdecode)

/-- A step that takes no reset moves the tile. -/
theorem step_movesTile {s : State} (hi : CoreInv s) (hreset : ¬TakesReset s) : MovesTile s (step s) := by
  intro t ht
  rcases step_next_cases ht with ⟨-, rfl⟩ |
    ⟨i, rest, hinput, ⟨w, -, -, rfl⟩ | ⟨w, rfl, -, hrun⟩ | ⟨rfl, -⟩ | ⟨w, n, rfl, -⟩⟩
  · exact .kept rfl
  · exact .kept rfl
  · refine runWord_movesTile (hi.withInput rest) ?_ t hrun
    rintro rfl
    exact hreset ⟨rest, .inl hinput⟩
  · exact absurd ⟨rest, .inr (.inl hinput)⟩ hreset
  · exact absurd ⟨rest, .inr (.inr ⟨w, n, hinput⟩)⟩ hreset

/-- A reset that cuts a command gives the values of R58 as any other (R222). -/
theorem resetFrom_cutByReset (w : CommandWord) (n : Nat) (s : State) (rest : List HostInput) :
    ResetFrom s (cutByReset w n { s with input := rest }) := by
  constructor <;> rfl

/-- A step that takes a reset gives the values of R58. -/
theorem resetFrom_of_takesReset {s t : State} (hreset : TakesReset s) (hstep : step s = .next t) : ResetFrom s t := by
  obtain ⟨rest, hinput | hinput | ⟨w, n, hinput⟩⟩ := hreset
  · rw [step_command hinput (holds_srstWord s)] at hstep
    cases (runWord_srstWord _).symm.trans hstep
    exact resetFrom_resetState s rest
  · simp only [step, hinput, takeInput] at hstep
    cases hstep
    exact resetFrom_resetState s rest
  · simp only [step, hinput, takeInput] at hstep
    cases hstep
    exact resetFrom_cutByReset w n s rest

/-- Settles O25: without a reset the step is a `TileMove`, read from each of the three states of R116. -/
theorem tileIsWrittenOnce : Obligations.TileIsWrittenOnce := by
  intro s t hi hstep
  refine ⟨fun hreset => resetFrom_of_takesReset hreset hstep, fun hreset => ?_⟩
  have hmove : TileMove s.params s.tile t.tile := step_movesTile hi hreset t hstep
  refine ⟨fun hvalid => ?_, fun hloading => ?_, fun hvalid hidle => ?_⟩
  · have hidle : s.tileLoading = false := by simpa using fun h => hi.tileExclusive ⟨hvalid, h⟩
    obtain ⟨hv, hl, hs, hc, he⟩ := Tile.ext_iff.mp (hmove.of_valid hvalid hidle)
    exact ⟨hv.trans hvalid, hl.trans hidle, he, hs, hc⟩
  · have hinvalid : s.tileValid = false := by simpa using fun h => hi.tileExclusive ⟨h, hloading⟩
    cases hmove with
    | kept h =>
      obtain ⟨hv, hl, hs, hc, he⟩ := Tile.ext_iff.mp h
      exact ⟨hs, .inr (.inl ⟨hv.trans hinvalid, hl.trans hloading, he, hc⟩)⟩
    | opened _ _ hidle => exact absurd (hidle.symm.trans hloading) Bool.false_ne_true
    | appended d _ hroom h =>
      obtain ⟨hv, hl, hs, hc, he⟩ := Tile.ext_iff.mp h
      refine ⟨hs, .inr (.inr ⟨hv.trans hinvalid, hl.trans hloading, ?_, fun k hk => ?_⟩)⟩
      · exact (congrArg BitVec.toNat hc).trans (tileCount_succ_toNat hroom)
      · exact (congrArg (Memory.read · k) he).trans (Memory.read_write_other _ _ hk)
    | closed _ hfull h =>
      obtain ⟨hv, hl, hs, hc, he⟩ := Tile.ext_iff.mp h
      exact ⟨hs, .inl ⟨hv, hl, he, hc, hfull⟩⟩
  · obtain ⟨hside, hcount⟩ := hi.tileEmpty hvalid hidle
    rcases hmove.of_idle hidle with h | ⟨side, hlegal, h⟩
    · obtain ⟨hv, hl, hs, hc, he⟩ := Tile.ext_iff.mp h
      exact ⟨hv.trans hvalid, he, hc.trans hcount, fun _ => hs.trans hside,
        fun hload => absurd ((hl.trans hidle).symm.trans hload) Bool.false_ne_true⟩
    · obtain ⟨hv, hl, hs, hc, he⟩ := Tile.ext_iff.mp h
      exact ⟨hv.trans hvalid, he, hc, fun hload => absurd (hload.symm.trans hl) Bool.false_ne_true,
        fun _ => (show t.tileSide = side from hs) ▸ hlegal⟩

end Sys2Proof.Machine
end

section
/-! PROOFS. The stream (42_stream.md): what START and END do when they are accepted, and the faults of START, PIX and END
in the order of R209. -/

namespace Sys2Proof.Machine

/-! ## START and END, accepted (R130, R136) -/

/-- An array of zeros holds 0 at every index of its space. -/
theorem accHolds_zeroAcc {p : Params} {x : Nat} (hx : x < p.maxWidth) : accHolds (zeroAcc p) x 0 :=
  ⟨0, (Memory.read_fill _ _ _).trans (if_pos hx), rfl⟩

/-- START past its three checks (R130). -/
theorem exec_start_of_ready {s : State} (hidle : s.active = false) (hw : s.w ≠ 0)
    (htile : s.mode = .blue → s.tileValid = true) :
    exec .start s = .next
      { s with
        active := true, col := 0, row := 0, packAcc := 0, packN := 0
        acc0 := zeroAcc s.params, acc1 := zeroAcc s.params, acc2 := zeroAcc s.params, cmdCount := s.cmdCount + 1 } := by
  have hclosed : ¬s.active = true := by simp [hidle]
  have hserved : ¬(s.mode = .blue ∧ s.tileValid = false) := fun ⟨hblue, hnone⟩ => by simp [htile hblue] at hnone
  exact (if_neg hclosed).trans ((if_neg hw).trans (if_neg hserved))

/-- Settles O27: START is accepted, and the arrays it writes hold 0 everywhere. -/
theorem startOpensZeroedStream : Obligations.StartOpensZeroedStream := by
  intro s hidle hw htile
  exact ⟨_, exec_start_of_ready hidle hw htile, rfl,
    fun _ hx => ⟨accHolds_zeroAcc hx, accHolds_zeroAcc hx, accHolds_zeroAcc hx⟩⟩

/-- Settles O34: both checks of END pass. -/
theorem endClosesStream : Obligations.EndClosesStream := by
  intro s hact hcol
  have hopen : ¬(!s.active) = true := by simp [hact]
  exact (if_neg hopen).trans (if_neg (not_not.mpr hcol))

/-! ## The faults, in the order of R209 -/

/-- Settles O35: START asks for no open stream, then a width, then in BLUE a valid tile; END for an open stream, then a row
boundary. -/
theorem startAndEndFaultInOrder : Obligations.StartAndEndFaultInOrder := by
  intro s
  have hclosed (h : s.active = false) : ¬s.active = true := by simp [h]
  refine ⟨fun hact => ?_, fun hidle hw => ?_, fun hidle hw hblue hnone => ?_, fun hidle => ?_, fun hact hcol => ?_⟩
  · exact (if_pos hact).trans (raise_contractViolation _ _ s)
  · exact (if_neg (hclosed hidle)).trans ((if_pos hw).trans (raise_contractViolation _ _ s))
  · exact (if_neg (hclosed hidle)).trans
      ((if_neg hw).trans ((if_pos ⟨hblue, hnone⟩).trans (raise_configurationError _ _ s)))
  · have hcheck : (!s.active) = true := by simp [hidle]
    exact (if_pos hcheck).trans (raise_contractViolation _ _ s)
  · have hopen : ¬(!s.active) = true := by simp [hact]
    exact (if_neg hopen).trans ((if_pos hcol).trans (raise_contractViolation _ _ s))

/-- The fault record of R205 for PAYLOAD_OVERFLOW. -/
theorem raise_payloadOverflow (opc info : BitVec 8) (s : State) :
    raise opc .payloadOverflow info s = .next (faulted s opc 7 info) := rfl

/-- Settles O33: PIX asks for an open stream, then for a row neither too short nor too long, which `last` cannot both be,
then for room. -/
theorem pixFaultsInOrder : Obligations.PixFaultsInOrder := by
  intro s sample last
  have hopen (hact : s.active = true) : ¬(!s.active) = true := by simp [hact]
  refine ⟨fun hidle => ?_, fun hact hlast hcol => ?_, fun hact hmore hcol => ?_, fun hact hshape hbyte hfull => ?_⟩
  · have hcheck : (!s.active) = true := by simp [hidle]
    exact (if_pos hcheck).trans (raise_contractViolation _ _ s)
  · exact (if_neg (hopen hact)).trans ((if_pos ⟨hlast, hcol⟩).trans (raise_contractViolation _ _ s))
  · have hnotShort : ¬(last = true ∧ s.col.toNat + 1 < s.w.toNat) := by simp [hmore]
    exact (if_neg (hopen hact)).trans
      ((if_neg hnotShort).trans ((if_pos ⟨hmore, hcol⟩).trans (raise_contractViolation _ _ s)))
  · have hnotShort : ¬(last = true ∧ s.col.toNat + 1 < s.w.toNat) := fun ⟨hlast, hcol⟩ => hcol.ne (hshape.mp hlast)
    have hnotLong : ¬(last = false ∧ s.col.toNat + 1 = s.w.toNat) := fun ⟨hmore, hcol⟩ => by
      simp [hshape.mpr hcol] at hmore
    exact (if_neg (hopen hact)).trans ((if_neg hnotShort).trans
      ((if_neg hnotLong).trans ((if_pos ⟨hbyte, hfull⟩).trans (raise_payloadOverflow _ _ s))))

end Sys2Proof.Machine
end

section
/-! PROOFS. Ordered dithering (43_ordered.md): a PIX in a mode that keeps no state packs its decision and leaves the
accumulators, and the threshold the decision reads is the ROM entry in BAYER, the tile entry in BLUE. -/

namespace Sys2Proof.Machine

/-- In BAYER, BLUE and PASS an accepted PIX packs `orderedDark` of its column, and a row end rotates no array (R135). -/
theorem exec_pix_ordered {s : State} {last : Bool} (hi : CoreInv s) (hmode : OrderedMode s.mode)
    (ha : PixAccepted last s) (sample : Byte) :
    ∃ t, exec (.pix sample last) s = .next t ∧ PixEffect s (orderedDark s s.col.toNat sample) last t ∧
      t.acc0 = s.acc0 ∧ t.acc1 = s.acc1 ∧ t.acc2 = s.acc2 := by
  obtain ⟨q, hdecide, hdark⟩ := ditherDecide_ordered hi ha.1 hmode sample
  obtain ⟨t, ht, heffect, hnext, hrowEnd, -⟩ := execPix_of_decide hi ha hdecide
  refine ⟨t, ht, hdark ▸ heffect, ?_⟩
  cases last with
  | false => exact hnext rfl
  | true => exact rotate_eq_self hmode ▸ hrowEnd rfl

/-! ## The thresholds (R60, R61, R120, R122) -/

/-- The ROM lookup as an index into the table's 64 entries (R60, R122). -/
theorem tileValueBayer_eq_getD (p : Params) (r c : Nat) :
    tileValueBayer p r c = (p.bayerRom.toList.getD (8 * (r % 8) + c % 8) 0).toNat := by
  have hlt : 8 * (r % 8) + c % 8 < 64 := by omega
  simp [tileValueBayer, Vector.get, List.getD_eq_getElem?_getD, hlt]

/-- The BAYER decision compares with four times the ROM entry (R142). -/
theorem orderedDark_bayer {s : State} (hmode : s.mode = .bayer) (c : Nat) (sample : Byte) :
    orderedDark s c sample =
      decide (sample.toNat < 4 * (s.params.bayerRom.toList.getD (8 * (s.row % 8) + c % 8) 0).toNat) := by
  simp only [orderedDark, hmode, tileValueBayer_eq_getD]

/-- The BLUE decision compares with the tile entry where it is written (R143). -/
theorem orderedDark_blue {s : State} {c : Nat} {v : Byte} (hmode : s.mode = .blue)
    (hread : s.tlut.read (s.row % s.tileSide.toNat * s.tileSide.toNat + c % s.tileSide.toNat) = some v)
    (sample : Byte) : orderedDark s c sample = decide (sample.toNat ≤ v.toNat) := by
  simp only [orderedDark, hmode, hread, Option.getD_some]

/-- A tile lookup that answers has read a written entry of the tile, row after row (R61, R120). -/
theorem read_of_tileValueBlue {s : State} {r c : Nat} {v : Byte} (h : tileValueBlue r c s = .ok v) :
    s.tlut.read (r % s.tileSide.toNat * s.tileSide.toNat + c % s.tileSide.toNat) = some v := by
  have hside : s.tileSide.toNat ≠ 0 := fun hzero => by simp [tileValueBlue, hzero] at h
  simp only [tileValueBlue, hside, if_false] at h
  exact (memRead_ok_iff.mp h).2

/-! ## PIX in BAYER and in BLUE -/

/-- Settles O28: the stateless PIX, its decision read off the ROM. -/
theorem pixBayerResult : Obligations.PixBayerResult := by
  intro s sample last hi hmode ha
  exact orderedDark_bayer hmode s.col.toNat sample ▸ exec_pix_ordered hi (.inl hmode) ha sample

/-- Settles O29: the stream has a valid tile (R130), so the entry is written; then the stateless PIX. -/
theorem pixBlueResult : Obligations.PixBlueResult := by
  intro s sample last hi hmode ha
  obtain ⟨v, hv⟩ := tileValueBlue_ok hi (hi.blueTile ha.1 hmode) s.row s.col.toNat
  have hread := read_of_tileValueBlue hv
  obtain ⟨t, ht, heffect, hacc⟩ := exec_pix_ordered hi (.inr (.inl hmode)) ha sample
  exact ⟨t, v, hread, ht, orderedDark_blue hmode hread sample ▸ heffect, hacc⟩

end Sys2Proof.Machine
end

section
/-! PROOFS. Error diffusion (44_error_diffusion.md): PIX in PASS packs the raw sample's decision; PIX in FS and ATK adds
to each accumulator element the gain of its column from the floored error, and a row end rotates the arrays; totals and
errors stay within R162's ranges. -/

namespace Sys2Proof.Machine

/-- Settles O30: the stateless PIX, whose decision in PASS is isDark of the sample itself. -/
theorem pixPassResult : Obligations.PixPassResult := by
  intro s sample last hi hmode ha
  have hdark : orderedDark s s.col.toNat sample =
      if s.packLe then decide (sample.toNat ≤ 0x3F) else decide (sample.toNat < 0x3F) := by
    simp only [orderedDark, hmode]
  exact hdark ▸ exec_pix_ordered hi (.inr (.inr hmode)) ha sample

/-! ## Quantizers and errors as the rules write them (R152, R155) -/

theorem floorDiv_eq_fdiv (a : Int) {b : Int} (hb : 0 ≤ b) : floorDiv a b = a.fdiv b :=
  (Int.fdiv_eq_ediv_of_nonneg a hb).symm

theorem fsError_eq_fdiv (total : Int) : fsError total = (total - if total > 63 then 255 else 0).fdiv 16 := by
  rw [fsError, floorDiv_eq_fdiv _ (by decide), fsQuantize, quantized_toNat, edThreshold]
  by_cases h : total > 63 <;> simp [h]

theorem atkError_eq_fdiv (atkGe : Bool) (total : Int) :
    atkError atkGe total =
      (total - if (if atkGe then decide (total ≥ 63) else decide (total > 63)) then 255 else 0).fdiv 8 := by
  rw [atkError, floorDiv_eq_fdiv _ (by decide), atkQuantize, quantized_toNat, edThreshold]
  push_cast
  rfl

/-- Neither PACK_LE choice changes what a quantized FS value packs: dark exactly up to 63 (R152, R164). -/
theorem isDark_fsQuantize (packLe : Bool) (total : Int) : isDark packLe (fsQuantize total) = decide (total ≤ 63) := by
  rw [fsQuantize, isDark_quantized, ← decide_not]
  simp only [edThreshold, gt_iff_lt, not_lt]

/-! ## Totals (R152, R155, R162) -/

/-- The total of R152 and R155 for the next sample, as the claims write it. -/
abbrev nextTotal (s : State) (sample : Byte) : Int := sample.toNat + accValue s.acc0 s.col.toNat

/-- A total the model computes is the sample plus the element of ACC0 at the column. -/
theorem eq_nextTotal_of_diffusionTotal {s : State} {sample : Byte} {total : Int}
    (h : diffusionTotal sample s = .ok total) : total = nextTotal s sample := by
  unfold diffusionTotal at h
  cases hread : accRead .acc0 s.col.toNat s with
  | error f => simp [hread] at h
  | ok v =>
    obtain ⟨-, b, hb, rfl⟩ := accRead_ok_iff.mp hread
    have hvalue : accValue s.acc0 s.col.toNat = b.toInt := accValue_of_read hb
    simpa [hread, nextTotal, hvalue] using h.symm

section OpenStream
variable {s : State} (hi : CoreInv s) (hact : s.active = true)
include hi hact

theorem diffusionTotal_eq (sample : Byte) : diffusionTotal sample s = .ok (nextTotal s sample) := by
  obtain ⟨total, htotal, -, -⟩ := diffusionTotal_ok hi hact sample
  exact eq_nextTotal_of_diffusionTotal htotal ▸ htotal

/-- A sample moves ACC0's bound at the column by at most 255 (R162). -/
theorem nextTotal_range (sample : Byte) :
    -(accLimit s.mode .acc0 s.col.toNat s.col.toNat : Int) ≤ nextTotal s sample ∧
      nextTotal s sample ≤ 255 + accLimit s.mode .acc0 s.col.toNat s.col.toNat := by
  obtain ⟨total, htotal, hrange⟩ := diffusionTotal_ok hi hact sample
  exact eq_nextTotal_of_diffusionTotal htotal ▸ hrange

theorem nextTotal_range_fs (hmode : s.mode = .fs) (sample : Byte) :
    -192 ≤ nextTotal s sample ∧ nextTotal s sample ≤ 447 := by
  have hrange := nextTotal_range hi hact sample
  simp only [hmode, accLimit, le_refl, if_true] at hrange
  exact hrange

theorem nextTotal_range_atk (hmode : s.mode = .atk) (sample : Byte) :
    -144 ≤ nextTotal s sample ∧ nextTotal s sample ≤ 399 := by
  have hrange := nextTotal_range hi hact sample
  simp only [hmode, accLimit, le_refl, if_true] at hrange
  exact hrange

theorem fsError_nextTotal_natAbs_le (hmode : s.mode = .fs) (sample : Byte) :
    (fsError (nextTotal s sample)).natAbs ≤ 12 := by
  obtain ⟨hlo, hhi⟩ := nextTotal_range_fs hi hact hmode sample
  exact fsError_natAbs_le hlo hhi

theorem atkError_nextTotal_natAbs_le (hmode : s.mode = .atk) (sample : Byte) :
    (atkError s.atkGe (nextTotal s sample)).natAbs ≤ 24 := by
  obtain ⟨hlo, hhi⟩ := nextTotal_range_atk hi hact hmode sample
  exact atkError_natAbs_le hlo hhi _

/-- Every element an array holds is within the invariant's bound at its place. -/
theorem accLimit_of_read {k : AccName} {x : Nat} {v : AccWord} (hread : (s.acc k).read x = some v)
    (hx : x < s.params.maxWidth) : v.toInt.natAbs ≤ accLimit s.mode k s.col.toNat x := by
  obtain ⟨b, hb, hle⟩ := accBounded_iff.mp ((hi.accReady hact k).bounded x hx)
  obtain rfl : v = b := Option.some.inj (hread.symm.trans hb)
  exact hle

/-- Shares inside the row and small enough are all added: each element gains what the shares name for it. -/
theorem applyShares_gains {shares : List Share} (hcol : ∀ h ∈ shares, h.column < s.w.toNat)
    (habs : absSum shares ≤ 192) :
    ∃ t, applyShares shares s = .ok t ∧ ∀ k x, x < s.params.maxWidth →
      accHolds (t.acc k) x (accValue (s.acc k) x + shareSum k x shares) := by
  have hready := hi.accReady hact
  obtain ⟨t, ht, -, -, -, hsum⟩ := applyShares_ok shares s 192 hready.accGood hready.accShape
    (fun h hh => lt_of_lt_of_le (hcol h hh) hi.width) (by omega)
  exact ⟨t, ht, hsum⟩

end OpenStream

/-- An array that no share names is left whole. -/
theorem applyShares_acc_of_not_named {k : AccName} {shares : List Share} {s t : State}
    (h : applyShares shares s = .ok t) (hk : ∀ a ∈ shares, a.acc ≠ k) : t.acc k = s.acc k := by
  induction shares generalizing s with
  | nil =>
    cases h
    rfl
  | cons a rest ih =>
    obtain ⟨hhead, htail⟩ := List.forall_mem_cons.mp hk
    simp only [applyShares] at h
    cases hadd : accAdd a.acc a.column a.amount s with
    | error f => simp [hadd] at h
    | ok u =>
      obtain ⟨-, b, -, rfl⟩ := accAdd_ok_iff.mp hadd
      simp only [hadd] at h
      rw [ih h htail, setAcc_acc, if_neg hhead]

/-- FS has no share for ACC2 (R153). -/
theorem fsShares_acc_ne_acc2 (w c : Nat) (e : Int) : ∀ a ∈ fsShares w c e, a.acc ≠ .acc2 := by
  intro a ha
  simp only [fsShares, List.mem_append, List.mem_ite_nil_right, List.mem_cons, List.not_mem_nil, or_false] at ha
  rcases ha with (⟨_, rfl | rfl⟩ | ⟨_, rfl⟩) | rfl <;> simp

/-! ## A row end (R135, R154, R158) -/

theorem rotate_of_fs {s : State} (hmode : s.mode = .fs) : rotate s = rotateFs s := by simp only [rotate, hmode]

theorem rotate_of_atk {s : State} (hmode : s.mode = .atk) : rotate s = rotateAtk s := by simp only [rotate, hmode]

/-! ## The decisions with their shares -/

/-- The FS decision: the quantized total, and the gains of R153. -/
theorem ditherDecide_fs {s : State} (hi : CoreInv s) (hact : s.active = true) (hmode : s.mode = .fs) (sample : Byte) :
    ∃ t, ditherDecide sample s = .ok (fsQuantize (nextTotal s sample), t) ∧ t.acc2 = s.acc2 ∧
      ∀ x, x < s.params.maxWidth →
        accHolds t.acc0 x
          (accValue s.acc0 x + fsGain0 s.w.toNat s.col.toNat (fsError (nextTotal s sample)) x) ∧
        accHolds t.acc1 x
          (accValue s.acc1 x + fsGain1 s.w.toNat s.col.toNat (fsError (nextTotal s sample)) x) := by
  obtain ⟨-, hc, -, -⟩ := hi.stream hact
  obtain ⟨t, ht, hgains⟩ := applyShares_gains hi hact (fsShares_column_lt hc _)
    (absSum_fsShares_le (fsError_nextTotal_natAbs_le hi hact hmode sample) _ _)
  refine ⟨t, ?_, applyShares_acc_of_not_named (k := .acc2) ht (fsShares_acc_ne_acc2 _ _ _), fun x hx => ⟨?_, ?_⟩⟩
  · simp only [ditherDecide, hmode, decideFs, diffusionTotal_eq hi hact, ht]
  · exact shareSum_fsShares_acc0 _ _ _ x ▸ hgains .acc0 x hx
  · exact shareSum_fsShares_acc1 _ _ _ x ▸ hgains .acc1 x hx

/-- The ATK decision: the quantized total, and the gains of R156. -/
theorem ditherDecide_atk {s : State} (hi : CoreInv s) (hact : s.active = true) (hmode : s.mode = .atk)
    (sample : Byte) :
    ∃ t, ditherDecide sample s = .ok (atkQuantize s.atkGe (nextTotal s sample), t) ∧
      ∀ x, x < s.params.maxWidth →
        accHolds t.acc0 x
          (accValue s.acc0 x + atkGain0 s.w.toNat s.col.toNat (atkError s.atkGe (nextTotal s sample)) x) ∧
        accHolds t.acc1 x
          (accValue s.acc1 x + atkGain1 s.w.toNat s.col.toNat (atkError s.atkGe (nextTotal s sample)) x) ∧
        accHolds t.acc2 x
          (accValue s.acc2 x + atkGain2 s.col.toNat (atkError s.atkGe (nextTotal s sample)) x) := by
  obtain ⟨-, hc, -, -⟩ := hi.stream hact
  obtain ⟨t, ht, hgains⟩ := applyShares_gains hi hact (atkShares_column_lt hc _)
    (absSum_atkShares_le (atkError_nextTotal_natAbs_le hi hact hmode sample) _ _)
  refine ⟨t, ?_, fun x hx => ⟨?_, ?_, ?_⟩⟩
  · simp only [ditherDecide, hmode, decideAtk, diffusionTotal_eq hi hact, ht]
  · exact shareSum_atkShares_acc0 _ _ _ x ▸ hgains .acc0 x hx
  · exact shareSum_atkShares_acc1 _ _ _ x ▸ hgains .acc1 x hx
  · exact shareSum_atkShares_acc2 _ _ _ x ▸ hgains .acc2 x hx

/-! ## PIX in FS and in ATK -/

/-- Settles O31: the FS decision's gains, then at a row end the rotation of R154. -/
theorem pixFloydSteinbergResult : Obligations.PixFloydSteinbergResult := by
  intro s sample last hi hmode ha c w total q e
  have he : fsError total = e := fsError_eq_fdiv total
  obtain ⟨t, hdecide, hacc2, hgains⟩ := ditherDecide_fs hi ha.1 hmode sample
  obtain ⟨u, hu, heffect, hnext, hrowEnd, -⟩ := execPix_of_decide hi ha hdecide
  have hsame := ditherDecide_sameButAcc hdecide
  have hrotate : rotate t = rotateFs t := rotate_of_fs (by rw [hsame]; exact hmode)
  have hparams : t.params = s.params := by rw [hsame]
  refine ⟨u, hu, isDark_fsQuantize s.packLe total ▸ heffect, ?_⟩
  cases last with
  | false =>
    obtain ⟨h0, h1, h2⟩ := hnext rfl
    refine ⟨h2.trans hacc2, fun x hx => ⟨fun _ => ?_, by simp⟩⟩
    rw [h0, h1, ← he]
    exact hgains x hx
  | true =>
    obtain ⟨h0, h1, h2⟩ := hrotate ▸ hrowEnd rfl
    refine ⟨h2.trans hacc2, fun x hx => ⟨by simp, fun _ => ?_⟩⟩
    obtain ⟨-, hgain1⟩ := hgains x hx
    rw [h0, h1, ← he]
    exact ⟨hgain1, accHolds_zeroAcc (hparams ▸ hx)⟩

/-- Settles O32: the ATK decision's gains, then at a row end the rotation of R158. -/
theorem pixAtkinsonResult : Obligations.PixAtkinsonResult := by
  intro s sample last hi hmode ha c w total isLight e
  have he : atkError s.atkGe total = e := atkError_eq_fdiv s.atkGe total
  have hdark : isDark s.packLe (atkQuantize s.atkGe total) = !isLight := isDark_quantized s.packLe isLight
  obtain ⟨t, hdecide, hgains⟩ := ditherDecide_atk hi ha.1 hmode sample
  obtain ⟨u, hu, heffect, hnext, hrowEnd, -⟩ := execPix_of_decide hi ha hdecide
  have hsame := ditherDecide_sameButAcc hdecide
  have hrotate : rotate t = rotateAtk t := rotate_of_atk (by rw [hsame]; exact hmode)
  have hparams : t.params = s.params := by rw [hsame]
  refine ⟨u, hu, hdark ▸ heffect, fun x hx => ?_⟩
  cases last with
  | false =>
    obtain ⟨h0, h1, h2⟩ := hnext rfl
    refine ⟨fun _ => ?_, by simp⟩
    rw [h0, h1, h2, ← he]
    exact hgains x hx
  | true =>
    obtain ⟨h0, h1, h2⟩ := hrotate ▸ hrowEnd rfl
    obtain ⟨-, hgain1, hgain2⟩ := hgains x hx
    refine ⟨by simp, fun _ => ?_⟩
    rw [h0, h1, h2, ← he]
    exact ⟨hgain1, hgain2, accHolds_zeroAcc (hparams ▸ hx)⟩

/-! ## The ranges (R162) -/

/-- In ATK no bound exceeds 144. -/
theorem accLimit_atk_le (k : AccName) (c x : Nat) : accLimit .atk k c x ≤ 144 := by
  cases k <;> simp only [accLimit] <;> split_ifs <;> omega

/-- Settles O55: an element is within the invariant's bound at its place, which is at most 192 in FS and 144 in ATK; the
total and the error follow from ACC0's bound at the column. -/
theorem accumulatorsStayInRange : Obligations.AccumulatorsStayInRange := by
  intro s hi hact
  refine ⟨fun hmode => ⟨fun k x v hread hx => ?_, fun sample => ?_⟩,
    fun hmode => ⟨fun k x v hread hx => ?_, fun sample => ?_⟩⟩
  · exact (accLimit_of_read hi hact hread hx).trans (accLimit_le _ _ _ _)
  · obtain ⟨hlo, hhi⟩ := nextTotal_range_fs hi hact hmode sample
    have herror := fsError_nextTotal_natAbs_le hi hact hmode sample
    have hrange : -12 ≤ fsError (nextTotal s sample) ∧ fsError (nextTotal s sample) ≤ 12 := by omega
    exact ⟨hlo, hhi, hrange⟩
  · exact (hmode ▸ accLimit_of_read hi hact hread hx).trans (accLimit_atk_le _ _ _)
  · obtain ⟨hlo, hhi⟩ := nextTotal_range_atk hi hact hmode sample
    have herror := atkError_nextTotal_natAbs_le hi hact hmode sample
    have hrange : -24 ≤ atkError s.atkGe (nextTotal s sample) ∧ atkError s.atkGe (nextTotal s sample) ≤ 24 := by omega
    exact ⟨hlo, hhi, hrange⟩

end Sys2Proof.Machine
end

section
/-! PROOFS. Unpacking (R167). Bit 7 - t of byte k is b_(8k+t) of R87, so unpacking reads the row's own bit at every
position, inside the row and past it; the round trip and the padding are both that one fact. -/

namespace Sys2Proof.Machine

/-- A group's earliest bit is its highest. -/
theorem groupValue_testBit (bits : List Bool) (k : Nat) {n j : Nat} (h : j < n) :
    (groupValue bits k n).testBit j = rowBit bits (8 * k + (n - 1 - j)) := by
  induction n generalizing j with
  | zero => exact absurd h (Nat.not_lt_zero j)
  | succ n ih =>
    rw [groupValue, ← Nat.bit_val]
    cases j with
    | zero => simp
    | succ j =>
      rw [Nat.testBit_bit_succ, ih (Nat.lt_of_succ_lt_succ h)]
      congr 2
      omega

/-- Bit 7 - t of byte k is column 8k + t (R87). -/
theorem packedByte_getLsbD (bits : List Bool) (k : Nat) {t : Nat} (h : t < 8) :
    (packedByte bits k).getLsbD (7 - t) = rowBit bits (8 * k + t) := by
  have hbit : 7 - t < 8 := by omega
  have hcol : 8 - 1 - (7 - t) = t := by omega
  rw [packedByte_eq_groupValue, BitVec.getLsbD_ofNat, groupValue_testBit bits k hbit, hcol]
  simp [hbit]

theorem packedRow_length (bits : List Bool) : (packedRow bits).length = (bits.length + 7) / 8 := by
  simp [packedRow]

theorem rowBit_past_end {bits : List Bool} {x : Nat} (h : bits.length ≤ x) : rowBit bits x = false :=
  List.getD_eq_default bits false h

/-- What is read at a column of the packed row is the row's bit there, 0 past the row's end. -/
theorem unpackBit_packedRow (bits : List Bool) (x : Nat) : unpackBit (packedRow bits) x = rowBit bits x := by
  rw [unpackBit, List.getD_eq_getElem?_getD]
  by_cases hk : x / 8 < (bits.length + 7) / 8
  · rw [packedRow_getElem? hk, Option.getD_some, packedByte_getLsbD bits _ (Nat.mod_lt x (by decide)), Nat.div_add_mod]
  · have hpast : bits.length ≤ x := by omega
    have hnone : (packedRow bits)[x / 8]? = none := List.getElem?_eq_none (packedRow_length bits ▸ Nat.le_of_not_lt hk)
    simp [hnone, rowBit_past_end hpast]

/-- Reading a row's bits one by one gives the row. -/
theorem map_rowBit_range (bits : List Bool) : (List.range bits.length).map (rowBit bits) = bits :=
  List.ext_getElem (by simp) fun x _ hx => by
    rw [List.getElem_map, List.getElem_range, rowBit, List.getD_eq_getElem bits false hx]

/-- Settles O36: unpacking reads the row's own bits, which are 0 past the end. -/
theorem unpackInvertsPack : Obligations.UnpackInvertsPack := by
  intro bits
  refine ⟨?_, ?_, packedRow_length bits⟩
  · calc unpackRow (packedRow bits) bits.length
        = (List.range bits.length).map (rowBit bits) := List.map_congr_left fun x _ => unpackBit_packedRow bits x
      _ = bits := map_rowBit_range bits
  · refine List.all_eq_true.mpr fun t _ => ?_
    rw [unpackBit_packedRow, rowBit_past_end (Nat.le_add_right _ t), Bool.not_false]

end Sys2Proof.Machine
end

section
/-! PROOFS. The frame's operands and faults (46_frame.md). BUILD's shape is any pair of integers and BUILDA's is in range,
so both read their faults off the same checks of `frame`, in the order of R209. -/

namespace Sys2Proof.Machine

/-- Settles O20: either command is one write and its completion. -/
theorem frameOperandsHoldEveryValue : Obligations.FrameOperandsHoldEveryValue := fun _ _ => ⟨rfl, rfl⟩

/-- The fault record of R205 for OUT_OF_RANGE. -/
theorem raise_outOfRange (opc info : BitVec 8) (s : State) :
    raise opc .outOfRange info s = .next (faulted s opc 5 info) := rfl

/-! ## The checks of a frame (R174) -/

section Checks
variable {opc : BitVec 8} {w h : Int} {s : State}

theorem frame_midRow (hcol : s.col ≠ 0) : frame opc w h s = .next (faulted s opc 2 8) :=
  (if_pos hcol).trans (raise_contractViolation _ _ s)

/-- At a row boundary with both sides in range, capacity and size are left to check. -/
theorem frame_inRange (hcol : s.col = 0) (hw : 0 ≤ w ∧ w ≤ 65535) (hh : 0 ≤ h ∧ h ≤ 65535) :
    frame opc w h s =
      if w * h > 4096 then .next (faulted s opc 4 0)
      else if w * h ≠ s.payloadLen.toNat then .next (faulted s opc 3 0)
      else finish (emitFrame w h s) := by
  have hwRange : ¬(w < 0 ∨ w > 65535) := by omega
  have hhRange : ¬(h < 0 ∨ h > 65535) := by omega
  exact (if_neg (not_not.mpr hcol)).trans ((if_neg hwRange).trans (if_neg hhRange))

theorem frame_overCapacity (hcol : s.col = 0) (hw : 0 ≤ w ∧ w ≤ 65535) (hh : 0 ≤ h ∧ h ≤ 65535)
    (hcap : w * h > 4096) : frame opc w h s = .next (faulted s opc 4 0) :=
  (frame_inRange hcol hw hh).trans (if_pos hcap)

theorem frame_sizeMismatch (hcol : s.col = 0) (hw : 0 ≤ w ∧ w ≤ 65535) (hh : 0 ≤ h ∧ h ≤ 65535)
    (hcap : w * h ≤ 4096) (hsize : w * h ≠ s.payloadLen.toNat) : frame opc w h s = .next (faulted s opc 3 0) :=
  (frame_inRange hcol hw hh).trans ((if_neg hcap.not_gt).trans (if_pos hsize))

/-- A frame that goes out has at least its header's bytes (R88, R175). -/
theorem emitFrame_out_ne {u : State} (hu : emitFrame w h s = .ok u) : u.out ≠ s.out := by
  unfold emitFrame at hu
  cases hbytes : payloadBytes s with
  | error f => simp [hbytes] at hu
  | ok bytes =>
    obtain rfl : { emit (frameHeader w h ++ bytes) s with payloadLen := 0, payloadRows := 0 } = u := by
      simpa [hbytes] using hu
    simp [emit, frameHeader]

/-- With both sides in range the state is never OUT_OF_RANGE's: the other faults have other codes, and what goes out shows
in OUT, whatever fault record the state held before. -/
theorem frame_inRange_ne_outOfRange (hw : 0 ≤ w ∧ w ≤ 65535) (hh : 0 ≤ h ∧ h ≤ 65535) (info : BitVec 8) :
    frame opc w h s ≠ .next (faulted s opc 5 info) := by
  intro hframe
  have hcode {code info' : BitVec 8} (heq : Host.Outcome.next (faulted s opc code info') = frame opc w h s) :
      code = 5 := congrArg State.errCode (Host.Outcome.next.inj (heq.trans hframe))
  by_cases hcol : s.col = 0
  · by_cases hcap : w * h > 4096
    · exact absurd (hcode (frame_overCapacity hcol hw hh hcap).symm) (by decide)
    · by_cases hsize : w * h = s.payloadLen.toNat
      · rw [frame_inRange hcol hw hh, if_neg hcap, if_neg (not_not.mpr hsize)] at hframe
        obtain ⟨u, hu, hfaulted⟩ := finish_eq_next_iff.mp hframe
        exact emitFrame_out_ne hu (congrArg State.out hfaulted).symm
      · exact absurd (hcode (frame_sizeMismatch hcol hw hh (not_lt.mp hcap) hsize).symm) (by decide)
  · exact absurd (hcode (frame_midRow hcol).symm) (by decide)

end Checks

/-! ## BUILD and BUILDA (R176, R177) -/

theorem exec_build (s : State) : exec .build s = frame 0x40 s.frameW.toInt s.frameH.toInt s := rfl

theorem exec_builda (s : State) :
    exec .builda s = frame 0x41 ((s.w.toNat + 7) / 8 : Nat) s.payloadRows.toNat s := by
  have hceil : ceilDiv s.w.toNat 8 = ((s.w.toNat + 7) / 8 : Nat) := by simp only [ceilDiv, floorDiv]; omega
  exact hceil ▸ rfl

/-- Settles O40: the checks of `frame`, one by one. -/
theorem buildFaultsInOrder : Obligations.BuildFaultsInOrder := by
  intro s w h
  rw [exec_build]
  refine ⟨frame_midRow, fun hcol hw => ?_, fun hcol hw0 hw hh => ?_, fun hcol hw0 hw hh0 hh hcap => ?_,
    fun hcol hw0 hw hh0 hh hcap hsize => ?_⟩
  · exact (if_neg (not_not.mpr hcol)).trans ((if_pos hw).trans (raise_outOfRange _ _ s))
  · have hwRange : ¬(w < 0 ∨ w > 65535) := by omega
    exact (if_neg (not_not.mpr hcol)).trans ((if_neg hwRange).trans ((if_pos hh).trans (raise_outOfRange _ _ s)))
  · exact frame_overCapacity hcol ⟨hw0, hw⟩ ⟨hh0, hh⟩ hcap
  · exact frame_sizeMismatch hcol ⟨hw0, hw⟩ ⟨hh0, hh⟩ hcap hsize

/-- Settles O41: ceilDiv(W, 8) and PAYLOAD_ROWS are always in range. -/
theorem buildaFaultsInOrder : Obligations.BuildaFaultsInOrder := by
  intro s w h
  have hw : (0 : Int) ≤ w ∧ (w : Int) ≤ 65535 := by have := s.w.isLt; omega
  have hh : (0 : Int) ≤ h ∧ (h : Int) ≤ 65535 := by have := s.payloadRows.isLt; omega
  rw [exec_builda]
  refine ⟨frame_midRow, fun hcol hcap => ?_, fun hcol hcap hsize => ?_, frame_inRange_ne_outOfRange hw hh⟩
  · exact frame_overCapacity hcol hw hh (by exact_mod_cast hcap)
  · exact frame_sizeMismatch hcol hw hh (by exact_mod_cast hcap) (by exact_mod_cast hsize)

end Sys2Proof.Machine
end

section
/-! PROOFS. The host's row batcher (R180): what the groups of a list of rows are, and that the batcher's are. -/

namespace Sys2Proof.Machine

/-- The groups R180 asks for: the rows in order, in ceil(L/size) groups that are full but for the last. -/
structure GroupsOf {α : Type} (size : Nat) (rows : List α) (groups : List (List α)) : Prop where
  flatten : groups.flatten = rows
  length : groups.length = (rows.length + size - 1) / size
  bounds : ∀ g ∈ groups, g ≠ [] ∧ g.length ≤ size
  full : ∀ k, k + 1 < groups.length → groups[k]?.map List.length = some size

section Groups
variable {α : Type} {size : Nat}

theorem groupsOf_nil (hsize : 1 ≤ size) : GroupsOf size ([] : List α) [] where
  flatten := rfl
  length := by rw [Nat.div_eq_of_lt (by simp; omega), List.length_nil]
  bounds := by simp
  full := by simp

/-- Rows that fit into one group are one group. -/
theorem groupsOf_singleton {rows : List α} (hne : rows ≠ []) (hfit : rows.length ≤ size) :
    GroupsOf size rows [rows] where
  flatten := by simp
  length := by
    have hpos := List.length_pos_iff.mpr hne
    rw [List.length_singleton]
    exact (Nat.div_eq_of_lt_le (by omega) (by omega)).symm
  bounds := by simp [hne, hfit]
  full := by simp

/-- A full group before the groups of the rest. -/
theorem GroupsOf.cons {group rest : List α} {groups : List (List α)} (hsize : 1 ≤ size) (hfull : group.length = size)
    (h : GroupsOf size rest groups) : GroupsOf size (group ++ rest) (group :: groups) where
  flatten := by rw [List.flatten_cons, h.flatten]
  length := by
    have hsum : (group ++ rest).length + size - 1 = rest.length + size - 1 + size := by simp; omega
    rw [hsum, Nat.add_div_right _ hsize, List.length_cons, h.length]
  bounds := List.forall_mem_cons.mpr ⟨⟨List.length_pos_iff.mp (by omega), hfull.le⟩, h.bounds⟩
  full
    | 0, _ => by simp [hfull]
    | k + 1, hk => h.full k (Nat.lt_of_succ_lt_succ hk)

/-- What the batcher gives from a pending group that is not yet full. -/
theorem batchFrom_groupsOf (pending rows : List α) (hpending : pending.length < size) :
    GroupsOf size (pending ++ rows) (batchFrom size pending rows) := by
  have hsize : 1 ≤ size := by omega
  induction rows generalizing pending with
  | nil =>
    rw [List.append_nil, batchFrom]
    cases pending with
    | nil => exact groupsOf_nil hsize
    | cons row pending => exact groupsOf_singleton (List.cons_ne_nil row pending) hpending.le
  | cons row rest ih =>
    rw [List.append_cons, batchFrom]
    by_cases hfull : (pending ++ [row]).length = size
    · rw [if_pos hfull]
      exact (ih [] hsize).cons hsize hfull
    · rw [if_neg hfull]
      have hlength : (pending ++ [row]).length = pending.length + 1 := List.length_append
      exact ih _ (by omega)

end Groups

/-- Settles O42: the batcher starts with nothing pending. -/
theorem batcherGroupsInOrder : Obligations.BatcherGroupsInOrder := by
  intro rows size hsize
  obtain ⟨hflatten, hlength, hbounds, hfull⟩ := batchFrom_groupsOf [] rows hsize
  exact ⟨_, if_neg (by omega), hflatten, hlength, hbounds, hfull⟩

end Sys2Proof.Machine
end

section
/-! PROOFS. Faults (60_exceptions.md): entering the fault state (R205, R206), staying in it (R207) and leaving it (R208),
and the idle step (R216). -/

namespace Sys2Proof.Machine

/-- Settles O11: no input, no change. -/
theorem emptyChannelHoldsState : Obligations.EmptyChannelHoldsState := by
  intro s hempty
  simp only [step, hempty]

/-! ## The fault state (R207, R208) -/

/-- Settles O10: a faulted core holds no word, so every word is taken; it is discarded, or it is SRST and resets. -/
theorem faultedCoreAcceptsSrstOnly : Obligations.FaultedCoreAcceptsSrstOnly := by
  intro s w rest hinput hfault
  rw [step_command hinput (holds_of_fault w hfault)]
  constructor
  · exact fun hw => runWord_discards hw hfault
  · rintro rfl
    exact ⟨_, runWord_srstWord _, resetFrom_resetState s rest, rfl, rfl⟩

/-- A faulted core emits nothing, so a reset during a word lets no byte of it through. -/
theorem cutByReset_of_fault (w : CommandWord) (n : Nat) {s : State} (hfault : s.fault = true) :
    cutByReset w n s = resetState s := by
  simp only [cutByReset, emittedBy_of_fault w hfault, List.take_nil, emit, List.append_nil]

/-- A faulted core that is no longer faulted after a step has taken a reset, whose state is `resetState`. -/
theorem reset_of_step_leaves_fault {s t : State} (hfault : s.fault = true) (hstep : step s = .next t)
    (hleft : t.fault = false) :
    ∃ rest, t = resetState { s with input := rest } ∧
      (s.input = .command srstWord :: rest ∨ s.input = .hardReset :: rest ∨
        ∃ w n, s.input = .resetDuring w n :: rest) := by
  have hchanged : t.fault ≠ s.fault := by simp [hfault, hleft]
  rcases step_next_cases hstep with ⟨-, rfl⟩ |
    ⟨i, rest, hinput, ⟨w, -, -, rfl⟩ | ⟨w, rfl, -, hrun⟩ | ⟨rfl, rfl⟩ | ⟨w, n, rfl, rfl⟩⟩
  · exact absurd rfl hchanged
  · exact absurd rfl hchanged
  · by_cases hw : w = srstWord
    · subst hw
      cases (runWord_srstWord _).symm.trans hrun
      exact ⟨rest, rfl, .inl hinput⟩
    · cases (runWord_discards (s := { s with input := rest }) hw hfault).symm.trans hrun
      exact absurd rfl hchanged
  · exact ⟨rest, rfl, .inr (.inl hinput)⟩
  · exact ⟨rest, cutByReset_of_fault w n hfault, .inr (.inr ⟨w, n, hinput⟩)⟩

/-- Settles O45: the state after is `resetState` with the channel that remains. -/
theorem onlyResetsLeaveFault : Obligations.OnlyResetsLeaveFault := by
  intro s t hfault hstep hleft
  obtain ⟨rest, rfl, hinput⟩ := reset_of_step_leaves_fault hfault hstep hleft
  exact ⟨resetFrom_resetState s rest, rfl, rest, rfl, hinput⟩

/-! ## Taking a fault (R204 to R206) -/

/-- The operation that takes a fault writes exactly the record of R205. -/
theorem takeFault_eq_faulted (opc : BitVec 8) (e : FaultCode) (info : BitVec 8) (s : State) :
    takeFault opc e info s = faulted s opc e.code info := rfl

/-- The three decode checks raise ILLEGAL_COMMAND with an ERR_INFO of R204's table. -/
theorem decodeError_mem_faultTable (e : DecodeError) : (FaultCode.illegalCommand.code, e.info) ∈ faultTable := by
  cases e <;> decide

/-- A word that leaves FAULT = 1 from FAULT = 0 has failed a decode check or a check of its command; either way the fault
record is all it leaves. -/
theorem runWord_faults_precisely {w : CommandWord} {s t : State} (hrun : runWord w s = .next t)
    (hgood : s.fault = false) (hbad : t.fault = true) :
    ∃ row ∈ faultTable, t = faulted s (opcField w) row.1 row.2 := by
  have hchanged : t.fault ≠ s.fault := by simp [hgood, hbad]
  rcases runWord_next_cases hrun with ⟨-, -, rfl⟩ | ⟨-, -, rfl⟩ | ⟨-, e, -, rfl⟩ | ⟨-, i, hdecode, hexec⟩
  · exact absurd hbad Bool.false_ne_true
  · exact absurd rfl hchanged
  · exact ⟨_, decodeError_mem_faultTable e, takeFault_eq_faulted _ _ _ _⟩
  · obtain ⟨hopc, -, -⟩ := decode_ok_fields hdecode
    rcases exec_next_cases hexec with ⟨e, info, rfl, hrow⟩ | ⟨-, rfl⟩ | ⟨-, -, -, -, hkept, -⟩
    · exact ⟨_, hrow, by rw [hopc, takeFault_eq_faulted]⟩
    · exact absurd hbad Bool.false_ne_true
    · exact absurd hkept hchanged

/-- Settles O43: a held word changes nothing, so the word was taken and run. -/
theorem faultsArePrecise : Obligations.FaultsArePrecise := by
  intro s t w rest hinput hgood hstep hbad
  cases hheld : holds w s with
  | true =>
    cases (step_held hinput hheld).symm.trans hstep
    exact absurd (hgood.symm.trans hbad) Bool.false_ne_true
  | false =>
    rw [step_command hinput hheld] at hstep
    exact runWord_faults_precisely hstep hgood hbad

end Sys2Proof.Machine
end

section
/-! PROOFS. Resets and hazards (70_reset_and_hazards.md): the CSR view after a reset (R221), a reset during a command
(R222, R227) and the schedule that has no meaning (R227). -/

namespace Sys2Proof.Machine

/-! ## The CSR view after a reset (R221) -/

/-- No register but PARAMS remembers the state a reset came from. -/
theorem csrRead_resetState (s : State) {k : BitVec 8} (hparams : k.toNat ≠ 0x0D) :
    csrRead (resetState s) k = csrRead State.reset k := by
  unfold csrRead
  split
  case h_14 h => exact absurd h hparams
  all_goals rfl

/-- At reset every register reads 0 but CONFIG and PARAMS (R39 to R53, R58). -/
theorem csrRead_reset_eq_zero {k : BitVec 8} (hconfig : k.toNat ≠ 0x04) (hparams : k.toNat ≠ 0x0D) :
    csrRead State.reset k = 0 := by
  unfold csrRead
  split
  case h_5 h => exact absurd h hconfig
  case h_14 h => exact absurd h hparams
  all_goals decide

/-- A reset keeps the parameters, so PARAMS reads as before (R37, R52). -/
theorem csrRead_resetState_params (s : State) (inp : List HostInput) :
    csrRead (resetState { s with input := inp }) 0x0D = csrRead s 0x0D := rfl

/-- A hardware reset between commands answers `resetState` (R220). -/
theorem step_hardReset {s : State} {rest : List HostInput} (hinput : s.input = .hardReset :: rest) :
    step s = .next (resetState { s with input := rest }) := by
  simp only [step, hinput, takeInput]

/-- Settles O51: but for PARAMS, which a reset keeps, the registers read as in the one state of R58; CONFIG there is
O49's. -/
theorem resetCsrView : Obligations.ResetCsrView := by
  intro s rest hinput
  obtain ⟨⟨-, -, -, -, hconfigAtReset⟩, -⟩ := statusErrorConfigLayout
  refine ⟨resetState { s with input := rest }, step_hardReset hinput, ?_, fun k hconfig hparams => ?_,
    csrRead_resetState_params s rest⟩
  · exact (csrRead_resetState _ (by decide)).trans hconfigAtReset
  · exact (csrRead_resetState _ hparams).trans (csrRead_reset_eq_zero hconfig hparams)

/-! ## A reset during a command (R222, R227) -/

/-- A reset during a command answers `cutByReset` (R222). -/
theorem step_resetDuring {s : State} {w : CommandWord} {n : Nat} {rest : List HostInput}
    (hinput : s.input = .resetDuring w n :: rest) : step s = .next (cutByReset w n { s with input := rest }) := by
  simp only [step, hinput, takeInput]

/-- Of a command cut short only the first `n` of its bytes reach OUT (I8). -/
theorem cutByReset_out (w : CommandWord) (n : Nat) (s : State) :
    (cutByReset w n s).out = s.out ++ (emittedBy w s).take n := rfl

/-- Settles O13: the bytes are those the whole run appends to OUT, `emittedBy`. -/
theorem resetDuringCommandKeepsEmittedPart : Obligations.ResetDuringCommandKeepsEmittedPart := by
  intro s u w n rest hinput hrun
  exact ⟨_, emittedBy w { s with input := rest }, step_resetDuring hinput, resetFrom_cutByReset w n s rest,
    runWord_out hrun, cutByReset_out w n _, rfl⟩

/-- Settles O14: the schedule of R227 with no meaning, refused by the input that names it (I17). -/
theorem wordDuringResetIsRefused : Obligations.WordDuringResetIsRefused := by
  intro s w rest hinput
  simp only [step, hinput, takeInput]

end Sys2Proof.Machine
end
